-- ==== Sys2Proof/Word.lean ====
section
/-! DEFINITION. The words of the block: frame bytes, durations, descriptors (spec 00_scope.md R9, R10, R13). -/

namespace Sys2Proof

/-- A frame byte, 8 bits (00 R9). Bit 0 is the least significant bit (00 R10). -/
abbrev Byte := BitVec 8

/-- A duration in whole microseconds, 16 bits unsigned: the width of `dly` (00 R9, R10). -/
abbrev Micros := BitVec 16

/-- The wires of a descriptor, grouped by bytes, least significant byte first: entry `n` is
`desc[8n+7:8n]`, so entry 0 is the tag. A port of the configuration has `2 + MAX_PAYLOAD` of them,
which is `DESC_W = 16 + 8*MAX_PAYLOAD` bits (00 R7, R13; 30 R86). DESIGN CHOICE, safe: log entry 14. -/
abbrev Desc := List Byte

end Sys2Proof
end

