-- ==== Sys2Proof/Config.lean ====
section
/-! DEFINITION. The static parameters of the block, their legal values and their defaults (spec 00_scope.md R7, R8). -/

namespace Sys2Proof

/-- `MBOX_POLICY`: what an offer to a full mailbox does (00 R7; 20 R61). -/
inductive MboxPolicy where
  | overwrite
  | reject
  deriving DecidableEq, Repr

/-- The seven static parameters of 00 R7. A model takes them as arguments; here they are one record,
which `State` carries and no operation writes (10 R35). DESIGN CHOICE, safe: log entry 1. -/
structure Params where
  /-- `T_ONE_US`: half-period of a logical 1. -/
  tOneUs : Micros
  /-- `T_ZERO_US`: half-period of a logical 0. -/
  tZeroUs : Micros
  /-- `PRE_OPS`: preamble length in bits, ordinary class. -/
  preOps : Nat
  /-- `PRE_SVC`: preamble length in bits, service-mode class. -/
  preSvc : Nat
  /-- `MAX_PAYLOAD`: largest number of payload bytes of a frame, checksum excluded. -/
  maxPayload : Nat
  /-- `MBOX_POLICY`. -/
  mboxPolicy : MboxPolicy
  /-- `INIT_DESC`: descriptor of the packet installed at reset. -/
  initDesc : Desc
  deriving DecidableEq, Repr

/-- `FRAME_MAX = MAX_PAYLOAD + 1`, the largest frame length in bytes (00 R7). -/
def Params.frameMax (p : Params) : Nat := p.maxPayload + 1

/-- The number of bytes of a descriptor, `DESC_W / 8` (00 R7). -/
def descBytes (maxPayload : Nat) : Nat := 2 + maxPayload

/-- The "legal values" column of 00 R7 for the six numeric and policy parameters, and the width of
`INIT_DESC`. That `INIT_DESC` builds is `Machine.legal`. -/
def Params.inRange (p : Params) : Bool :=
  decide (1 ≤ p.tOneUs.toNat) && decide (1 ≤ p.tZeroUs.toNat)
    && decide (10 ≤ p.preOps) && decide (p.preOps ≤ 255)
    && decide (14 ≤ p.preSvc) && decide (p.preSvc ≤ 255)
    && decide (2 ≤ p.maxPayload) && decide (p.maxPayload ≤ 255)
    && decide (p.initDesc.length = descBytes p.maxPayload)

/-- The "default" column of 00 R7; `INIT_DESC` is the IDLE descriptor `0x00000000000001`. -/
def Params.default : Params where
  tOneUs := 58
  tZeroUs := 100
  preOps := 10
  preSvc := 14
  maxPayload := 5
  mboxPolicy := .overwrite
  initDesc := [0x01, 0x00, 0x00, 0x00, 0x00, 0x00, 0x00]

/-! ## Free values: no proof can see what they are -/

/-- The byte that a frame written to a register leaves at an index past its own bytes, where the spec states no
content (00 R13; 20 R50). The builder is a pure function of the packet (40 R110), so the byte depends on the
frame's own bytes and on the index. DESIGN CHOICE, unsafe in that one respect: log entry 3. -/
opaque Config.unusedByte : List Byte → Nat → Byte

/-- The length that RESET leaves in the empty slot, unspecified (70 R220; 93 I16), drawn afresh each time. Safe:
log entry 4. -/
opaque Config.emptySlotLen : Nat → Nat

/-- The bytes that RESET leaves in the empty slot, by draw and index, unspecified. Safe: log entry 4. -/
opaque Config.emptySlotByte : Nat → Nat → Byte

/-- Whether RESET leaves the class SVC in the empty slot, unspecified. Safe: log entry 4. -/
opaque Config.emptySlotSvc : Nat → Bool

end Sys2Proof
end

