-- ==== Sys2Proof/Syntax.lean ====
section
/-! DEFINITION. The port sample and the nine commands, one constructor per row of spec/opcode_table.json
(spec 30_encoding.md R92, R93, R96; 10_state.md R30). -/

namespace Sys2Proof

/-- What the block samples on its input ports at one clock edge (10 R30). `desc` is `off_desc`, sampled
only when `off = 1` (70 R230). -/
structure PortSample where
  rst : Bool
  adv : Bool
  off : Bool
  desc : Desc
  deriving DecidableEq, Repr

/-- The nine commands of 30 R96: four operations selected by `ctl`, five packet commands selected by the
descriptor's tag. -/
inductive Instr where
  /-- NOP, `ctl = 000` (42 R163). -/
  | nop
  /-- ADVANCE, `ctl = 01x` (42 R160). `none` is `010`, ADVANCE alone; `some d` is `011`, ADVANCE and then
  OFFER of `d` at the same edge (42 R164; log entry 8). -/
  | advance (offered : Option Desc)
  /-- OFFER alone, `ctl = 001` (42 R162), with the sampled `off_desc`. -/
  | offer (desc : Desc)
  /-- RESET, `ctl = 1xx`; `adv` and `off` are ignored (70 R220). -/
  | reset
  /-- SPEED_DIR, tag `0x00` (30 R87; 40 R112). The two numbers are 8-bit fields, in range or not. -/
  | speedDir (addr speed : Byte) (dir : Bool)
  /-- IDLE, tag `0x01` (30 R88; 40 R113). -/
  | idle
  /-- DCC_RESET, tag `0x02`: the DCC Reset packet (30 R88; 40 R114). -/
  | dccReset
  /-- BCAST_STOP, tag `0x03` (30 R89; 40 R115). -/
  | bcastStop (emergency : Bool)
  /-- SVC_MODE, tag `0x04` (30 R90; 40 R116): the length field `L` and all `MAX_PAYLOAD` payload bytes of
  the port, used or not. -/
  | svcMode (len : Byte) (payload : List Byte)
  deriving DecidableEq, Repr

/-- The packet commands are the rows whose format is `descriptor` (30 R96). -/
def Instr.isPacket : Instr → Bool
  | .nop | .advance _ | .offer _ | .reset => false
  | .speedDir _ _ _ | .idle | .dccReset | .bcastStop _ | .svcMode _ _ => true

end Sys2Proof
end

