-- ==== Sys2Proof/WellFormed.lean ====
section
/-! DEFINITION. Which instructions have words at a given `MAX_PAYLOAD`: every descriptor has exactly `DESC_W`
bits (spec 00_scope.md R13; 30_encoding.md R86, R90). -/

namespace Sys2Proof

/-- A descriptor presented on a port of `MAX_PAYLOAD = maxPayload` has `DESC_W` bits (30 R86). -/
def descWellFormed (maxPayload : Nat) (d : Desc) : Bool := decide (d.length = descBytes maxPayload)

/-- An instruction is well formed when the words of the table can spell it. Field values out of a packet
command's legal domain are well formed: the builder reports them (30 R87, R94). -/
def Instr.wellFormed (maxPayload : Nat) : Instr → Bool
  | .nop => true
  | .advance none => true
  | .advance (some d) => descWellFormed maxPayload d
  | .offer d => descWellFormed maxPayload d
  | .reset => true
  | .speedDir _ _ _ => true
  | .idle => true
  | .dccReset => true
  | .bcastStop _ => true
  | .svcMode _ payload => decide (payload.length = maxPayload)

end Sys2Proof
end

