-- ==== Sys2Proof/Decode.lean ====
section
/-! DEFINITION. The two decoders of the block, by the control vector and by the descriptor's tag, the encoder
of both, and the bit-field helpers (spec 30_encoding.md R86 to R93, R96). -/

namespace Sys2Proof

/-! ## Bit fields -/

/-- Byte `n` of a descriptor, `desc[8n+7:8n]` (00 R10). A bit above the listed wires reads 0, as a
zero-extension (log entry 14). -/
def descByte (d : Desc) (n : Nat) : Byte := d.getD n 0

/-- The tag `desc[7:0]` (30 R86). -/
def descTag (d : Desc) : Byte := descByte d 0

/-- SPEED_DIR `addr`, `desc[15:8]` (30 R87). -/
def descAddr (d : Desc) : Byte := descByte d 1

/-- SPEED_DIR `speed`, `desc[23:16]` (30 R87). -/
def descSpeed (d : Desc) : Byte := descByte d 2

/-- SPEED_DIR `dir`, `desc[24]` (30 R87). -/
def descDir (d : Desc) : Bool := (descByte d 3).getLsbD 0

/-- BCAST_STOP `emergency`, `desc[8]` (30 R89). -/
def descEmergency (d : Desc) : Bool := (descByte d 1).getLsbD 0

/-- SVC_MODE `L`, `desc[15:8]` (30 R90). -/
def descLen (d : Desc) : Byte := descByte d 1

/-- SVC_MODE `payload[0..n-1]`, `payload[j] = desc[16+8j+7 : 16+8j]` (30 R90). -/
def descPayload (d : Desc) (n : Nat) : List Byte := (List.range n).map fun j => descByte d (2 + j)

/-- The low `n` bytes of a word, least significant byte first: `desc[8i+7:8i]` for `i < n`. -/
def bytesOfWord : Nat → Nat → Desc
  | 0, _ => []
  | n + 1, w => BitVec.ofNat 8 w :: bytesOfWord n (w / 256)

/-- The word whose bytes are listed, least significant byte first. -/
def wordOfBytes : Desc → Nat
  | [] => 0
  | b :: rest => b.toNat + 256 * wordOfBytes rest

/-- `n` zero bytes: the descriptor wires of a cycle that offers nothing. -/
def zeroDesc (n : Nat) : Desc := List.replicate n 0

/-- One bit as a byte, in bit 0. -/
def bitByte (b : Bool) : Byte := if b then 1 else 0

/-! ## The control vector -/

/-- `ctl[2:0] = {rst, adv, off}` (30 R92). -/
def PortSample.ctl (x : PortSample) : BitVec 3 :=
  BitVec.ofBool x.rst ++ BitVec.ofBool x.adv ++ BitVec.ofBool x.off

/-- The port sample with the given control vector and descriptor wires. -/
def portSampleOf (ctl : BitVec 3) (d : Desc) : PortSample where
  rst := ctl.getLsbD 2
  adv := ctl.getLsbD 1
  off := ctl.getLsbD 0
  desc := d

/-- One row of the table of 30 R92. -/
structure CtlRow where
  pattern : BitVec 3
  mask : BitVec 3
  deriving DecidableEq, Repr

/-- RESET, match `0b100`, mask `0b100`. -/
def resetRow : CtlRow := ⟨0b100, 0b100⟩
/-- ADVANCE, match `0b010`, mask `0b110`. -/
def advanceRow : CtlRow := ⟨0b010, 0b110⟩
/-- OFFER, match `0b001`, mask `0b101`. -/
def offerRow : CtlRow := ⟨0b001, 0b101⟩
/-- NOP, match `0b000`, mask `0b111`. -/
def nopRow : CtlRow := ⟨0b000, 0b111⟩

/-- Whether a control vector is one of a row's. -/
def CtlRow.selects (r : CtlRow) (ctl : BitVec 3) : Bool := ctl &&& r.mask == r.pattern

/-- The operation a control vector selects. No value is illegal (30 R93). `011` matches the rows of ADVANCE
and of OFFER and performs both, ADVANCE first (42 R164; log entry 8). -/
def decodeCtl (ctl : BitVec 3) (d : Desc) : Instr :=
  if resetRow.selects ctl then .reset
  else if advanceRow.selects ctl then
    .advance (if offerRow.selects ctl then some d else none)
  else if offerRow.selects ctl then .offer d
  else .nop

/-- The operation a port sample selects (30 R92). -/
def decodeSample (x : PortSample) : Instr := decodeCtl x.ctl x.desc

/-! ## The descriptor -/

/-- Why a list of bytes is no packet command. Safe: nothing is run. -/
inductive DecodeError where
  /-- Not `DESC_W` bits (30 R86). Raised by `decodePacket`. -/
  | descriptorWidth (bytes : Nat)
  /-- A reserved tag, `0x05`..`0xFF` (30 R91). Raised by `decodePacket`. -/
  | reservedTag (tag : Byte)
  deriving DecidableEq, Repr

/-- What the descriptor decoder answers. -/
inductive PacketDecode where
  | ok (i : Instr)
  | error (e : DecodeError)
  deriving DecidableEq, Repr

/-- The packet command a descriptor spells, by its tag (30 R86 to R91). Total on any bytes. Bits the tag does
not use are dropped. -/
def decodePacket (maxPayload : Nat) (d : Desc) : PacketDecode :=
  if descWellFormed maxPayload d then
    match (descTag d).toNat with
    | 0x00 => .ok (.speedDir (descAddr d) (descSpeed d) (descDir d))
    | 0x01 => .ok .idle
    | 0x02 => .ok .dccReset
    | 0x03 => .ok (.bcastStop (descEmergency d))
    | 0x04 => .ok (.svcMode (descLen d) (descPayload d maxPayload))
    | _ => .error (.reservedTag (descTag d))
  else .error (.descriptorWidth d.length)

/-! ## The encoder -/

/-- A descriptor from its used bytes, the unused ones zero. -/
def padDesc (maxPayload : Nat) (used : Desc) : Desc :=
  used ++ zeroDesc (descBytes maxPayload - used.length)

/-- The descriptor wires an instruction drives: for a packet command its descriptor (30 R86 to R90), for an
OFFER the raw one, and zeros in a cycle that offers nothing. -/
def encodeDesc (maxPayload : Nat) : Instr → Desc
  | .nop => zeroDesc (descBytes maxPayload)
  | .advance none => zeroDesc (descBytes maxPayload)
  | .advance (some d) => d
  | .offer d => d
  | .reset => zeroDesc (descBytes maxPayload)
  | .speedDir addr speed dir => padDesc maxPayload [0x00, addr, speed, bitByte dir]
  | .idle => padDesc maxPayload [0x01]
  | .dccReset => padDesc maxPayload [0x02]
  | .bcastStop emergency => padDesc maxPayload [0x03, bitByte emergency]
  | .svcMode len payload => 0x04 :: len :: payload

/-- The control vector an instruction drives (30 R92, R93). A packet command is presented by an OFFER
(30 R96; log entry 7). -/
def encodeCtl : Instr → BitVec 3
  | .nop => 0b000
  | .advance none => 0b010
  | .advance (some _) => 0b011
  | .offer _ => 0b001
  | .reset => 0b100
  | .speedDir _ _ _ => 0b001
  | .idle => 0b001
  | .dccReset => 0b001
  | .bcastStop _ => 0b001
  | .svcMode _ _ => 0b001

/-- The port sample that spells an instruction. -/
def encode (maxPayload : Nat) (i : Instr) : PortSample :=
  portSampleOf (encodeCtl i) (encodeDesc maxPayload i)

/-! ## Words of the opcode table -/

/-- Whether a table word is of the `ctl` format: those rows have 3 bits, one byte; the rows of the
`descriptor` format have `DESC_W` bits (log entry 9). -/
def isCtlWord (nbits : Nat) : Bool := decide (nbits ≤ 8)

/-- The instruction the decoder reads from a word of spec/opcode_table.json, at the default `MAX_PAYLOAD`.
A `ctl` word is followed by a descriptor of zeros; a wire the ports do not have refuses the word. -/
def decodeTableWord (nbits w : Nat) : Option Instr :=
  if isCtlWord nbits then
    if w < 8 then
      some (decodeCtl (BitVec.ofNat 3 w) (zeroDesc (descBytes Params.default.maxPayload)))
    else none
  else
    if w < 256 ^ descBytes Params.default.maxPayload then
      match decodePacket Params.default.maxPayload
          (bytesOfWord (descBytes Params.default.maxPayload) w) with
      | .ok i => some i
      | .error _ => none
    else none

end Sys2Proof
end

