-- ==== Sys2Proof/Machine/Frame.lean ====
section
/-! DEFINITION. The frame register, its byte read, the XOR checksum generator and the frame that a packet fills (spec
10_state.md R21; 20_memory.md R50; 00_scope.md R12, R13; 40_packet_builder.md R111). -/

namespace Sys2Proof.Machine

/-- The class of a frame, which selects its preamble (10 R21; 30 R82). -/
inductive FrameClass where
  /-- `OPS`, ordinary. -/
  | ops
  /-- `SVC`, service mode. -/
  | svc
  deriving DecidableEq, Repr

/-- A frame `{len, bytes[0..FRAME_MAX-1], class}` (10 R21), which is also the content of a frame register (20 R50).
That `bytes` has `FRAME_MAX` entries is `registerOk`. -/
structure Frame where
  /-- The number of bytes on the wire, checksum included. -/
  len : Nat
  /-- The byte array. Only the first `len` bytes hold the frame (20 R50); no rule reads the others (00 R13). -/
  bytes : List Byte
  cls : FrameClass
  deriving DecidableEq, Repr

/-- The bytes that hold the frame, the first `len` of the array, in transmission order (20 R50, R51). -/
def Frame.sent (F : Frame) : List Byte := F.bytes.take F.len

/-- `FrameByte(F, i)`, defined only for `i < F.len` (00 R12). -/
def frameByte (F : Frame) (i : Nat) : Option Byte := if i < F.len then F.bytes[i]? else none

/-- `XSUM(b_0, ..., b_{m-1})`, with `XSUM() = 0x00` (40 R111). -/
def xsum : List Byte → Byte
  | [] => 0
  | b :: rest => b ^^^ xsum rest

/-- A payload followed by its checksum (30 R73; 40 R111). -/
def withChecksum (payload : List Byte) : List Byte := payload ++ [xsum payload]

/-- A byte array of `n` entries that begins with the given bytes. The entries past them are free values (00 R13; log
entry 3). -/
def fillArray (n : Nat) (sent : List Byte) : List Byte :=
  sent ++ (List.range (n - sent.length)).map fun k => Config.unusedByte sent (sent.length + k)

/-- The frame of the given bytes, checksum included, in a register of `FRAME_MAX = maxPayload + 1` bytes (10 R21). -/
def frameOf (maxPayload : Nat) (sent : List Byte) (cls : FrameClass) : Frame where
  len := sent.length
  bytes := fillArray (maxPayload + 1) sent
  cls := cls

/-- What RESET leaves in the register of the empty slot: a register of `frameMax` bytes with a content the spec does
not state (70 R220; 93 I16). Free values, by the number of the draw (log entry 4). -/
def unspecifiedFrame (frameMax draw : Nat) : Frame where
  len := Config.emptySlotLen draw
  bytes := (List.range frameMax).map (Config.emptySlotByte draw)
  cls := if Config.emptySlotSvc draw then .svc else .ops

end Sys2Proof.Machine
end

