-- ==== Sys2Proof/Machine/Operands.lean ====
section
/-! DEFINITION. The operand forms of the packet bytes: the 28-step speed code, its reading back, and the data
bytes of SpeedAndDirection and BroadcastStop (spec 30_encoding.md R75 to R77, R80; 40_packet_builder.md R121,
R122). The layouts are general knowledge in the spec itself: log entry 13. -/

namespace Sys2Proof.Machine

/-- `SpeedCode(n)`, the 5-bit field `(C, SSSS)` (40 R121; 30 R76). The builder calls it for `n <= 28` only. -/
def speedCode (n : Nat) : BitVec 5 :=
  if n = 0 then 0b00000
  else
    let v : BitVec 5 := BitVec.ofNat 5 (n + 3)
    BitVec.ofBool (v.getLsbD 0) ++ v.extractLsb' 1 4

/-- What a decoder reads in a 5-bit speed field (30 R77; 40 R122). -/
inductive SpeedReading where
  | stop (ignoreDir : Bool)
  | estop (ignoreDir : Bool)
  | stepTo (n : Nat)
  deriving DecidableEq, Repr

/-- `SpeedDecode((C, SSSS))` (40 R122). -/
def speedDecode (code : BitVec 5) : SpeedReading :=
  let c := code.getLsbD 4
  let ssss := (code.extractLsb' 0 4).toNat
  if ssss = 0 then .stop c
  else if ssss = 1 then .estop c
  else .stepTo (2 * ssss + c.toNat - 3)

/-- The SpeedAndDirection data byte `01DCSSSS` (30 R75). -/
def speedDataByte (dir : Bool) (code : BitVec 5) : Byte :=
  (0b01 : BitVec 2) ++ BitVec.ofBool dir ++ code

/-- The direction and the speed field of a SpeedAndDirection data byte (30 R75). -/
def readSpeedDataByte (b : Byte) : Bool × BitVec 5 := (b.getLsbD 5, b.extractLsb' 0 5)

/-- The BroadcastStop data byte `0101000E` (30 R80). -/
def bcastDataByte (emergency : Bool) : Byte :=
  (0b0101000 : BitVec 7) ++ BitVec.ofBool emergency

end Sys2Proof.Machine
end

