-- ==== Sys2Proof/Machine/Builder.lean ====
section
/-! DEFINITION. The packet builder: one builder per packet command and `Build`, which dispatches on the tag
(spec 40_packet_builder.md R110, R112 to R118). It is combinational and reads no state. -/

namespace Sys2Proof.Machine

/-- The reason of an `OutOfRange`, model-level information (40 R110; 60 R191). -/
inductive OutOfRange where
  | addr
  | speed
  | len
  | tag
  deriving DecidableEq, Repr

/-- What `Build` answers: a frame or the construction error (40 R110). -/
inductive Built where
  | ok (F : Frame)
  | outOfRange (reason : OutOfRange)
  deriving DecidableEq, Repr

/-- Whether a descriptor built. -/
def Built.isOk : Built → Bool
  | .ok _ => true
  | .outOfRange _ => false

/-- SPEED_DIR (40 R112). The address is checked first. -/
def buildSpeedDir (maxPayload : Nat) (addr speed : Byte) (dir : Bool) : Built :=
  if addr.toNat = 0 ∨ 127 < addr.toNat then .outOfRange .addr
  else if 28 < speed.toNat then .outOfRange .speed
  else .ok (frameOf maxPayload (withChecksum [addr, speedDataByte dir (speedCode speed.toNat)]) .ops)

/-- IDLE (40 R113). -/
def buildIdle (maxPayload : Nat) : Built := .ok (frameOf maxPayload [0xFF, 0x00, 0xFF] .ops)

/-- DCC_RESET (40 R114). -/
def buildDccReset (maxPayload : Nat) : Built := .ok (frameOf maxPayload [0x00, 0x00, 0x00] .ops)

/-- BCAST_STOP (40 R115). -/
def buildBcastStop (maxPayload : Nat) (emergency : Bool) : Built :=
  .ok (frameOf maxPayload [0x00, bcastDataByte emergency, bcastDataByte emergency] .ops)

/-- SVC_MODE (40 R116) of a length field and the payload bytes on the port; bytes with `j >= L` are ignored. -/
def buildSvcMode (maxPayload : Nat) (len : Byte) (payload : List Byte) : Built :=
  if len.toNat = 0 ∨ maxPayload < len.toNat then .outOfRange .len
  else .ok (frameOf maxPayload (withChecksum (payload.take len.toNat)) .svc)

/-- A reserved tag (40 R117). -/
def buildReserved : Built := .outOfRange .tag

/-- `Build(desc)`: five named arms and one that refuses (40 R118). -/
def build (maxPayload : Nat) (d : Desc) : Built :=
  match (descTag d).toNat with
  | 0x00 => buildSpeedDir maxPayload (descAddr d) (descSpeed d) (descDir d)
  | 0x01 => buildIdle maxPayload
  | 0x02 => buildDccReset maxPayload
  | 0x03 => buildBcastStop maxPayload (descEmergency d)
  | 0x04 => buildSvcMode maxPayload (descLen d) (descPayload d maxPayload)
  | _ => buildReserved

end Sys2Proof.Machine
end

