-- ==== Sys2Proof/Machine/State.lean ====
section
/-! DEFINITION. The state of the block, its reset value, and the names of the ways a step can stop (spec
10_state.md R20 to R28, R38; 60_exceptions.md R192; 70_reset_and_hazards.md R225). -/

namespace Sys2Proof.Machine

/-- `PHASE`, the framing phase of the cursor (10 R23). Its hardware encoding is in Machine/Cursor.lean (log entry 5). -/
inductive Phase where
  /-- `PRE(k)`: a preamble bit, `k` left including this one. -/
  | pre (k : Nat)
  /-- `START`: the packet start bit. -/
  | start
  /-- `DATA(i, b)`: bit `b` of byte `i`. -/
  | data (i b : Nat)
  /-- `SEP(i)`: the separator after byte `i`. -/
  | sep (i : Nat)
  /-- `END`: the packet end bit. -/
  | endBit
  deriving DecidableEq, Repr

/-- `HALF`: which half of the current bit the next ADVANCE emits (10 R24). -/
inductive Half where
  | h1
  | h2
  deriving DecidableEq, Repr

/-- `OST`: the result of the last OFFER (10 R28). The three reserved codes are never written and have no
constructor (log entry 6). -/
inductive OfferStatus where
  /-- `0b000`: no OFFER since reset. -/
  | none
  /-- `0b001`: placed into an empty slot. -/
  | accepted
  /-- `0b010`: replaced the waiting packet. -/
  | replaced
  /-- `0b011`: dropped, the slot was full. -/
  | rejectedFull
  /-- `0b100`: the descriptor did not build. -/
  | outOfRange
  deriving DecidableEq, Repr

/-- The ways a step stops with a fault. -/
inductive Fault where
  /-- `BAD_STATE` (60 R192): raised by ADVANCE, alone or with OFFER, on a state outside `Inv` (10 R33). Safe:
  no run from reset reaches such a state, and a fault is never a next state (log entry 16). -/
  | badState
  deriving DecidableEq, Repr

/-- The ways a step refuses. -/
inductive Refusal where
  /-- An instruction without a meaning; raised by no arm of this model. Safe. -/
  | notModelled (mnemonic : String)
  /-- The parameters are outside 00 R7, or `INIT_DESC` does not build (70 R225): raised by `step` on such a
  configuration, and by RESET when `INIT_DESC` does not build. Safe: no block has such a configuration. -/
  | illegalConfig
  deriving DecidableEq, Repr

/-- The single-slot mailbox `{valid, frame}` (10 R25). -/
structure Slot where
  /-- Whether the slot holds a packet. -/
  valid : Bool
  /-- The frame register of the slot. No rule reads it while `valid` is false. -/
  frame : Frame
  deriving DecidableEq, Repr

/-- The machine. The fields `cur` to `ost` are the seven elements of the spec's `S` (10 R20), the cursor being
`phase` and `half`. `cfg` is the configuration, which no operation writes (log entry 1). The
other two are the model's own: `inputs`, what the environment drives on the input ports at the coming edges (log
entry 2), and `draws`, which counts the free values drawn (log entry 4). -/
structure State where
  /-- The static parameters (00 R7). -/
  cfg : Params
  /-- `CUR`: the frame being transmitted (10 R22). -/
  cur : Frame
  /-- `PHASE` (10 R23). -/
  phase : Phase
  /-- `HALF` (10 R24). -/
  half : Half
  /-- `PEND` (10 R25). -/
  pend : Slot
  /-- `PIN`: true is high (10 R26). -/
  pin : Bool
  /-- `DLY` (10 R27). -/
  dly : Micros
  /-- `OST` (10 R28). -/
  ost : OfferStatus
  /-- The port samples of the coming edges, oldest first; past the list every strobe is low. -/
  inputs : List PortSample
  /-- How many contents of the empty slot RESET has drawn. -/
  draws : Nat
  deriving DecidableEq, Repr

/-- The state after RESET at the default parameters (10 R38). The bytes of `CUR` past its three and the content of
`PEND.frame`, for which the spec states no value, are zero. DESIGN CHOICE, unsafe: log entry 17. -/
def State.reset : State where
  cfg := Params.default
  cur := ⟨3, [0xFF, 0x00, 0xFF, 0x00, 0x00, 0x00], .ops⟩
  phase := .pre 10
  half := .h1
  pend := ⟨false, ⟨0, [0x00, 0x00, 0x00, 0x00, 0x00, 0x00], .ops⟩⟩
  pin := false
  dly := 0
  ost := .none
  inputs := []
  draws := 0

end Sys2Proof.Machine
end

