-- ==== Sys2Proof/Machine/Flags.lean ====
section
/-! DEFINITION. The status the block computes, `OST` with its codes and `pend_full`, and the output ports (spec
10_state.md R28 to R30, R39; 42_transmission.md R162). -/

namespace Sys2Proof.Machine

/-- The 3-bit code on `ost[2:0]` (10 R28). -/
def OfferStatus.code : OfferStatus → BitVec 3
  | .none => 0b000
  | .accepted => 0b001
  | .replaced => 0b010
  | .rejectedFull => 0b011
  | .outOfRange => 0b100

/-- The status of an OFFER from the policy, the slot and the builder's answer (42 R162). -/
def offerStatus (policy : MboxPolicy) (slot : Slot) (r : Built) : OfferStatus :=
  match r, slot.valid, policy with
  | .outOfRange _, _, _ => .outOfRange
  | .ok _, false, _ => .accepted
  | .ok _, true, .overwrite => .replaced
  | .ok _, true, .reject => .rejectedFull

/-- `pend_full` (10 R29). -/
def pendFull (s : State) : Bool := s.pend.valid

/-- The output ports (10 R30). -/
structure Outputs where
  pin : Bool
  dly : Micros
  pendFull : Bool
  ost : BitVec 3
  deriving DecidableEq, Repr

/-- Every output is a pure function of the state (10 R39). -/
def outputs (s : State) : Outputs := ⟨s.pin, s.dly, pendFull s, s.ost.code⟩

end Sys2Proof.Machine
end

