-- ==== Sys2Proof/Machine/BitTiming.lean ====
section
/-! DEFINITION. The bit and pulse-timing encoder: the due bit, its duration and level, the next phase, and the
wire format of a whole frame with its counts (spec 41_bit_timing.md R140 to R148; 30_encoding.md R70 to R72). -/

namespace Sys2Proof.Machine

/-- `PreLen(class)` (41 R146). -/
def preLen (p : Params) : FrameClass → Nat
  | .ops => p.preOps
  | .svc => p.preSvc

/-- `BitAt(F, PHASE)`, the logical bit due (41 R142). Undefined where `FrameByte` is (00 R12). -/
def bitAt (F : Frame) : Phase → Option Bool
  | .pre _ => some true
  | .start => some false
  | .data i b => (frameByte F i).map fun x => x.getLsbD b
  | .sep _ => some false
  | .endBit => some true

/-- `Dur(b)`, the half-period of a logical bit (41 R143). -/
def dur (p : Params) (b : Bool) : Micros := if b then p.tOneUs else p.tZeroUs

/-- `Level(HALF)`, the pin level of a half-bit (41 R144). -/
def level : Half → Bool
  | .h1 => true
  | .h2 => false

/-- `NextPhase(F, PHASE)` (41 R145). `none` is the packet boundary. -/
def nextPhase (F : Frame) : Phase → Option Phase
  | .pre k => if k > 1 then some (.pre (k - 1)) else some .start
  | .start => some (.data 0 7)
  | .data i b =>
    if b > 0 then some (.data i (b - 1))
    else if i < F.len - 1 then some (.sep i)
    else some .endBit
  | .sep i => some (.data (i + 1) 7)
  | .endBit => none

/-! ## A whole frame -/

/-- The bits of a byte in transmission order, bit 7 first (41 R141). -/
def byteBits (x : Byte) : List Bool := [7, 6, 5, 4, 3, 2, 1, 0].map fun b => x.getLsbD b

/-- The bytes of a frame with a separator after every byte but the last (30 R70). -/
def bodyBits : List Byte → List Bool
  | [] => []
  | [x] => byteBits x
  | x :: y :: rest => byteBits x ++ false :: bodyBits (y :: rest)

/-- `Bits(F)`: preamble, start bit, bytes with separators, end bit (30 R70). -/
def wireBits (p : Params) (F : Frame) : List Bool :=
  List.replicate (preLen p F.cls) true ++ false :: bodyBits F.sent ++ [true]

/-- The two half-bits of a logical bit, high then low, of the same duration (30 R72; 41 R143, R144). -/
def bitPulses (p : Params) (b : Bool) : List (Bool × Micros) := [(true, dur p b), (false, dur p b)]

/-- The `(pin, dly)` sequence of one frame. -/
def pulseTrain (p : Params) (F : Frame) : List (Bool × Micros) := (wireBits p F).flatMap (bitPulses p)

/-- `popcount` of a byte. -/
def popcount (x : Byte) : Nat := (byteBits x).count true

/-- `w`, the number of 1 bits among a frame's bytes (41 R148). -/
def frameWeight (F : Frame) : Nat := (F.sent.map popcount).sum

/-- `HalfBits(F) = 2*(P + 9n + 1)` (41 R148). -/
def halfBits (p : Params) (F : Frame) : Nat := 2 * (preLen p F.cls + 9 * F.len + 1)

/-- `FrameTime(F)` in microseconds, when each ADVANCE comes `dly` after the one before it (41 R148). -/
def frameTime (p : Params) (F : Frame) : Nat :=
  2 * p.tOneUs.toNat * (preLen p F.cls + frameWeight F + 1)
    + 2 * p.tZeroUs.toNat * (9 * F.len - frameWeight F)

/-- The logical bits left in a frame at a phase, the current one included. -/
def bitsLeft (F : Frame) : Phase → Nat
  | .pre k => k + 9 * F.len + 1
  | .start => 9 * F.len + 1
  | .data i b => b + 1 + 9 * (F.len - 1 - i) + 1
  | .sep i => 9 * (F.len - 1 - i) + 1
  | .endBit => 1

/-- The ADVANCEs left up to and including the next handoff (20 R62; 30 R95). -/
def halfBitsLeft (s : State) : Nat :=
  match s.half with
  | .h1 => 2 * bitsLeft s.cur s.phase
  | .h2 => 2 * bitsLeft s.cur s.phase - 1

end Sys2Proof.Machine
end

