-- ==== Sys2Proof/Machine/Invariant.lean ====
section
/-! DEFINITION. The invariant `Inv(S)` and the legal configurations (spec 10_state.md R31, R33; 00_scope.md R7;
70_reset_and_hazards.md R225). -/

namespace Sys2Proof.Machine

/-- A frame register holds `FRAME_MAX` bytes (20 R50). -/
def registerOk (p : Params) (F : Frame) : Bool := F.bytes.length == p.frameMax

/-- Condition 1 of 10 R33 for one frame: its length, and its checksum. -/
def frameOk (p : Params) (F : Frame) : Bool :=
  decide (2 ≤ F.len) && decide (F.len ≤ p.frameMax) && xsum F.sent == 0

/-- The ranges of 10 R31. -/
def phaseOk (p : Params) (F : Frame) : Phase → Bool
  | .pre k => decide (1 ≤ k) && decide (k ≤ preLen p F.cls)
  | .start => true
  | .data i b => decide (i ≤ F.len - 1) && decide (b ≤ 7)
  | .sep i => decide (i ≤ F.len - 2)
  | .endBit => true

/-- `Inv(S)`: the two frame registers have their size, which the spec's `S` has by its form (10 R21; 20 R50; log
entry 3), and the five conditions of 10 R33. -/
def inv (s : State) : Bool :=
  registerOk s.cfg s.cur && registerOk s.cfg s.pend.frame
    && frameOk s.cfg s.cur
    && phaseOk s.cfg s.cur s.phase
    && (!s.pend.valid || frameOk s.cfg s.pend.frame)
    && (s.pin == decide (s.half = .h2))
    && (decide (s.dly = 0) || decide (s.dly = s.cfg.tOneUs) || decide (s.dly = s.cfg.tZeroUs))

/-- A configuration a block may be instantiated with: the ranges of 00 R7, and an `INIT_DESC` that builds
(70 R225). -/
def legal (p : Params) : Bool := p.inRange && (build p.maxPayload p.initDesc).isOk

end Sys2Proof.Machine
end

