-- ==== Sys2Proof/Machine/Ops.lean ====
section
/-! DEFINITION. The shared operations over the state: one write per element, the half-bit, the cursor step, the
boundary handoff, the mailbox write, reset, and the fetch of a port sample (spec 42_transmission.md R160 to R164;
70_reset_and_hazards.md R220; 00_scope.md R12). The block has no traps (60_exceptions.md R195, R196), so there is
no exception entry and no return; its one error is the status that `offerBuilt` writes. -/

namespace Sys2Proof.Machine

/-! ## One write per state element (00 R11) -/

/-- `CUR <- F`, the whole frame at one edge (00 R12, `FrameWrite`). -/
def State.setCur (s : State) (F : Frame) : State := { s with cur := F }
/-- `PHASE <- p` (00 R12). -/
def State.setPhase (s : State) (p : Phase) : State := { s with phase := p }
/-- `HALF <- h`. -/
def State.setHalf (s : State) (h : Half) : State := { s with half := h }
/-- `PEND <- slot`, the valid bit and the whole frame at one edge (20 R53). -/
def State.setPend (s : State) (slot : Slot) : State := { s with pend := slot }
/-- `PIN <- b`. -/
def State.setPin (s : State) (b : Bool) : State := { s with pin := b }
/-- `DLY <- d`. -/
def State.setDly (s : State) (d : Micros) : State := { s with dly := d }
/-- `OST <- o`. -/
def State.setOst (s : State) (o : OfferStatus) : State := { s with ost := o }
/-- The samples still to come. -/
def State.setInputs (s : State) (l : List PortSample) : State := { s with inputs := l }
/-- The number of contents drawn. -/
def State.setDraws (s : State) (n : Nat) : State := { s with draws := n }

/-! ## The engine -/

/-- The pin and the delay of a half-bit of logical bit `b` (42 R160, R168, R169). -/
def emitHalfBit (b : Bool) (s : State) : State := (s.setPin (level s.half)).setDly (dur s.cfg b)

/-- The slot with its valid bit cleared. Its frame register is not written (42 R160). -/
def Slot.clear (slot : Slot) : Slot := { slot with valid := false }

/-- The boundary handoff (42 R161): the waiting packet becomes current and the slot empty, or the current
packet is re-armed. -/
def handoff (s : State) : State :=
  if s.pend.valid then
    ((s.setCur s.pend.frame).setPend s.pend.clear).setPhase (.pre (preLen s.cfg s.pend.frame.cls))
  else s.setPhase (.pre (preLen s.cfg s.cur.cls))

/-- The frame the next handoff sends: the waiting one, or else the current one again (42 R161). -/
def nextFrame (s : State) : Frame := if s.pend.valid then s.pend.frame else s.cur

/-- The cursor step of ADVANCE (42 R160; 41 R145). -/
def stepCursor (s : State) : State :=
  match s.half with
  | .h1 => s.setHalf .h2
  | .h2 =>
    match nextPhase s.cur s.phase with
    | some p => (s.setHalf .h1).setPhase p
    | none => handoff (s.setHalf .h1)

/-- One half-bit (42 R160): `BAD_STATE` outside `Inv` (60 R192), else the pin, the delay and the cursor. -/
def advanceHalfBit (s : State) : Host.Outcome State Fault Refusal :=
  if inv s then
    match bitAt s.cur s.phase with
    | some b => .next (stepCursor (emitHalfBit b s))
    | none => .fault .badState
  else .fault .badState

/-! ## The mailbox -/

/-- The slot after an OFFER (42 R162). -/
def offerSlot (policy : MboxPolicy) (slot : Slot) (r : Built) : Slot :=
  match r, slot.valid, policy with
  | .outOfRange _, _, _ => slot
  | .ok F, false, _ => ⟨true, F⟩
  | .ok F, true, .overwrite => ⟨true, F⟩
  | .ok _, true, .reject => slot

/-- The OFFER of what the builder answered (42 R162; 60 R191). -/
def offerBuilt (r : Built) (s : State) : State :=
  (s.setPend (offerSlot s.cfg.mboxPolicy s.pend r)).setOst (offerStatus s.cfg.mboxPolicy s.pend r)

/-- The OFFER of a descriptor (42 R162). -/
def offerDesc (d : Desc) (s : State) : State := offerBuilt (build s.cfg.maxPayload d) s

/-! ## Reset -/

/-- RESET with the initial frame `F` (70 R220; 10 R38). `PEND.frame` is left unspecified: a fresh free value (log
entry 4). -/
def resetBlock (F : Frame) (s : State) : State :=
  (((((((s.setCur F).setPhase (.pre (preLen s.cfg F.cls))).setHalf .h1).setPend
    ⟨false, unspecifiedFrame s.cfg.frameMax s.draws⟩).setPin false).setDly 0).setOst .none).setDraws (s.draws + 1)

/-! ## The clock edge -/

/-- A sample with every strobe low, on a port of `2 + maxPayload` descriptor bytes. -/
def idleSample (maxPayload : Nat) : PortSample := portSampleOf 0b000 (zeroDesc (descBytes maxPayload))

/-- The sample of the next edge: the first of the list, all strobes low past its end (log entry 2). -/
def nextSample (s : State) : PortSample := s.inputs.headD (idleSample s.cfg.maxPayload)

/-- The state with the sample of this edge consumed. -/
def consumeSample (s : State) : State := s.setInputs s.inputs.tail

/-- The operation of the next edge (30 R92). -/
def fetch (s : State) : Instr := decodeSample (nextSample s)

/-- The sample that presents a word of the opcode table: a `ctl` word with a descriptor of zeros, a descriptor
word as an OFFER (log entries 7 and 9). -/
def tableSample (maxPayload nbits w : Nat) : PortSample :=
  if isCtlWord nbits then portSampleOf (BitVec.ofNat 3 w) (zeroDesc (descBytes maxPayload))
  else portSampleOf 0b001 (bytesOfWord (descBytes maxPayload) w)

end Sys2Proof.Machine
end

