-- ==== Sys2Proof/Machine/Packet.lean ====
section
/-! DEFINITION. The meanings of the five packet commands. A packet command reaches the block inside an OFFER
(spec 30_encoding.md R96), so its meaning is the OFFER of what its builder answers (40_packet_builder.md R112 to
R116; 42_transmission.md R162). DESIGN CHOICE, safe: log entry 7. -/

namespace Sys2Proof.Machine

/-- SPEED_DIR (40 R112). -/
def execSpeedDir (addr speed : Byte) (dir : Bool) (s : State) : Host.Outcome State Fault Refusal :=
  .next (offerBuilt (buildSpeedDir s.cfg.maxPayload addr speed dir) s)

/-- IDLE (40 R113). -/
def execIdle (s : State) : Host.Outcome State Fault Refusal :=
  .next (offerBuilt (buildIdle s.cfg.maxPayload) s)

/-- DCC_RESET (40 R114). -/
def execDccReset (s : State) : Host.Outcome State Fault Refusal :=
  .next (offerBuilt (buildDccReset s.cfg.maxPayload) s)

/-- BCAST_STOP (40 R115). -/
def execBcastStop (emergency : Bool) (s : State) : Host.Outcome State Fault Refusal :=
  .next (offerBuilt (buildBcastStop s.cfg.maxPayload emergency) s)

/-- SVC_MODE (40 R116). -/
def execSvcMode (len : Byte) (payload : List Byte) (s : State) : Host.Outcome State Fault Refusal :=
  .next (offerBuilt (buildSvcMode s.cfg.maxPayload len payload) s)

end Sys2Proof.Machine
end

