-- ==== Sys2Proof/Machine/Port.lean ====
section
/-! DEFINITION. The meanings of the four port operations (spec 42_transmission.md R160 to R164;
70_reset_and_hazards.md R220). -/

namespace Sys2Proof.Machine

/-- NOP changes no state (42 R163). -/
def execNop (s : State) : Host.Outcome State Fault Refusal := .next s

/-- ADVANCE (42 R160, R161); with `some d`, the OFFER of `d` then runs against the slot that ADVANCE left
(42 R164). -/
def execAdvance (offered : Option Desc) (s : State) : Host.Outcome State Fault Refusal :=
  match advanceHalfBit s, offered with
  | .next t, none => .next t
  | .next t, some d => .next (offerDesc d t)
  | .fault f, _ => .fault f
  | .refused r, _ => .refused r

/-- OFFER (42 R162). -/
def execOffer (d : Desc) (s : State) : Host.Outcome State Fault Refusal := .next (offerDesc d s)

/-- RESET (70 R220). A configuration whose `INIT_DESC` does not build is refused (70 R225). -/
def execReset (s : State) : Host.Outcome State Fault Refusal :=
  match build s.cfg.maxPayload s.cfg.initDesc with
  | .ok F => .next (resetBlock F s)
  | .outOfRange _ => .refused .illegalConfig

end Sys2Proof.Machine
end

