-- ==== Sys2Proof/Machine/Dispatch.lean ====
section
/-! DEFINITION. One arm per constructor of Instr, each a direct call of its meaning (spec 30_encoding.md R92, R96). -/

namespace Sys2Proof.Machine

def exec (i : Instr) (s : State) : Host.Outcome State Fault Refusal :=
  match i with
  | .nop => Sys2Proof.Machine.execNop s
  | .advance offered => Sys2Proof.Machine.execAdvance offered s
  | .offer desc => Sys2Proof.Machine.execOffer desc s
  | .reset => Sys2Proof.Machine.execReset s
  | .speedDir addr speed dir => Sys2Proof.Machine.execSpeedDir addr speed dir s
  | .idle => Sys2Proof.Machine.execIdle s
  | .dccReset => Sys2Proof.Machine.execDccReset s
  | .bcastStop emergency => Sys2Proof.Machine.execBcastStop emergency s
  | .svcMode len payload => Sys2Proof.Machine.execSvcMode len payload s

end Sys2Proof.Machine
end

