-- ==== Sys2Proof/Machine/Step.lean ====
section
/-! DEFINITION. One rising edge of the clock, and placing a word of the opcode table at the next edge (spec
30_encoding.md R92; 42_transmission.md R167; 70_reset_and_hazards.md R225). -/

namespace Sys2Proof.Machine

/-- One clock edge: a configuration no block has is refused (70 R225); otherwise the block samples its input
ports and performs the operation they select (30 R92). -/
def step (s : State) : Host.Outcome State Fault Refusal :=
  if legal s.cfg then exec (fetch s) (consumeSample s) else .refused .illegalConfig

/-- `s` with a word of spec/opcode_table.json on the input ports at the very next edge. -/
def State.withFetchWord (s : State) (nbits w : Nat) : State :=
  s.setInputs (tableSample s.cfg.maxPayload nbits w :: s.inputs)

end Sys2Proof.Machine
end

