-- ==== Sys2Proof/Machine/Asm.lean ====
section
/-! DEFINITION. The assembler's line form, its pseudo-instructions and the port samples a line stands for (spec
30_encoding.md R94, R95). It has no effect on the block (92_eei_decisions.md D21). Lexical points the spec leaves
open: log entry 15. -/

namespace Sys2Proof.Machine

/-- `pkt` of 30 R94. -/
inductive AsmPacket where
  | speed (addr : Nat) (fwd : Bool) (n : Nat)
  | idle
  | dccReset
  | bstop (estop : Bool)
  | svc (bytes : List Nat)
  /-- A raw descriptor: the number of its hexadecimal digits, and its value. -/
  | desc (numDigits word : Nat)
  deriving DecidableEq, Repr

/-- `op` of 30 R94 with the two pseudo-instructions of 30 R95 that stand for several cycles. -/
inductive AsmOp where
  | nop
  | advance
  | reset
  | offer (p : AsmPacket)
  | advanceOffer (p : AsmPacket)
  | advanceTimes (n : Nat)
  | frame
  deriving DecidableEq, Repr

/-- Why the assembler refuses a line (30 R94). Safe: no sample is made. -/
inductive AsmError where
  /-- Not a line of the grammar. -/
  | badLine
  /-- A number that does not fit its 8-bit field. -/
  | fieldTooWide (n : Nat)
  /-- An `SVC` list longer than `MAX_PAYLOAD`. -/
  | svcTooLong (n : Nat)
  /-- A raw descriptor that is not `DESC_W/4` hexadecimal digits. -/
  | descWidth (numDigits : Nat)
  deriving DecidableEq, Repr

/-- What the assembler answers. -/
inductive Assembled (α : Type) where
  | ok (a : α)
  | error (e : AsmError)
  deriving DecidableEq, Repr

/-- The first of some numbers that does not fit 8 bits. -/
def tooWide (l : List Nat) : Option Nat := l.find? fun n => decide (256 ≤ n)

/-- The descriptor of a packet (30 R94). A value that fits its field and is out of range passes. -/
def assemblePacket (maxPayload : Nat) : AsmPacket → Assembled Desc
  | .speed a fwd n =>
    match tooWide [a, n] with
    | some v => .error (.fieldTooWide v)
    | none => .ok (encodeDesc maxPayload (.speedDir (BitVec.ofNat 8 a) (BitVec.ofNat 8 n) fwd))
  | .idle => .ok (encodeDesc maxPayload .idle)
  | .dccReset => .ok (encodeDesc maxPayload .dccReset)
  | .bstop e => .ok (encodeDesc maxPayload (.bcastStop e))
  | .svc bytes =>
    if maxPayload < bytes.length then .error (.svcTooLong bytes.length)
    else
      match tooWide bytes with
      | some v => .error (.fieldTooWide v)
      | none =>
        .ok (encodeDesc maxPayload (.svcMode (BitVec.ofNat 8 bytes.length)
          (bytes.map (BitVec.ofNat 8) ++ zeroDesc (maxPayload - bytes.length))))
  | .desc numDigits word =>
    if numDigits = 2 * descBytes maxPayload then .ok (bytesOfWord (descBytes maxPayload) word)
    else .error (.descWidth numDigits)

/-- The sample of a cycle that presents a packet with the given control vector. -/
def packetSample (ctl : BitVec 3) : Assembled Desc → Assembled (List PortSample)
  | .ok d => .ok [portSampleOf ctl d]
  | .error e => .error e

/-- The samples a line stands for, one per clock cycle (30 R94, R95). `FRAME` is repeated ADVANCE up to and
including the first handoff, so it depends on the cursor it starts from. -/
def assembleOp (s : State) : AsmOp → Assembled (List PortSample)
  | .nop => .ok [encode s.cfg.maxPayload .nop]
  | .advance => .ok [encode s.cfg.maxPayload (.advance none)]
  | .reset => .ok [encode s.cfg.maxPayload .reset]
  | .offer p => packetSample 0b001 (assemblePacket s.cfg.maxPayload p)
  | .advanceOffer p => packetSample 0b011 (assemblePacket s.cfg.maxPayload p)
  | .advanceTimes n => .ok (List.replicate n (encode s.cfg.maxPayload (.advance none)))
  | .frame => .ok (List.replicate (halfBitsLeft s) (encode s.cfg.maxPayload (.advance none)))

/-! ## The text of a line -/

/-- A lexical element of a line. -/
inductive Token where
  | word (w : List Char)
  | comma
  | lbrack
  | rbrack
  | colon
  deriving DecidableEq, Repr

/-- The token of the letters read so far, if any. -/
def flushWord (acc : List Char) : List Token := if acc = [] then [] else [.word acc.reverse]

/-- The tokens of a line up to its comment; `acc` holds the letters of the current word, last first. -/
def tokenize (acc : List Char) : List Char → List Token
  | [] => flushWord acc
  | c :: rest =>
    if c = ';' then flushWord acc
    else if c = ' ' ∨ c = '\t' then flushWord acc ++ tokenize [] rest
    else if c = ',' then flushWord acc ++ .comma :: tokenize [] rest
    else if c = '[' then flushWord acc ++ .lbrack :: tokenize [] rest
    else if c = ']' then flushWord acc ++ .rbrack :: tokenize [] rest
    else if c = ':' then flushWord acc ++ .colon :: tokenize [] rest
    else tokenize (c :: acc) rest

/-- The value of a digit in a base of at most 16. -/
def digitValue (base : Nat) (c : Char) : Option Nat :=
  let v := if '0' ≤ c ∧ c ≤ '9' then c.toNat - 48
    else if 'A' ≤ c ∧ c ≤ 'F' then c.toNat - 55
    else if 'a' ≤ c ∧ c ≤ 'f' then c.toNat - 87
    else 16
  if v < base then some v else none

/-- The number spelled by digits after a value already read. -/
def digits (base acc : Nat) : List Char → Option Nat
  | [] => some acc
  | c :: rest =>
    match digitValue base c with
    | some v => digits base (acc * base + v) rest
    | none => none

/-- A number, decimal or `0x` hexadecimal. -/
def number : List Char → Option Nat
  | [] => none
  | ['0', 'x'] => none
  | '0' :: 'x' :: rest => digits 16 0 rest
  | w => digits 10 0 w

/-- `hex`: `0x` and hexadecimal digits, most significant first. -/
def hexWord : List Char → Option AsmPacket
  | '0' :: 'x' :: rest => (digits 16 0 rest).map (.desc rest.length)
  | _ => none

/-- The rest of a list of bytes after its opening bracket. -/
def svcItems : List Token → Option (List Nat)
  | [.word w, .rbrack] => (number w).map fun n => [n]
  | .word w :: .comma :: rest =>
    match number w, svcItems rest with
    | some n, some l => some (n :: l)
    | _, _ => none
  | _ => none

/-- `"FWD" | "REV"`. -/
def parseDir (w : List Char) : Option Bool :=
  if w = ['F', 'W', 'D'] then some true
  else if w = ['R', 'E', 'V'] then some false
  else none

/-- `pkt` from its tokens. -/
def parsePacket : List Token → Option AsmPacket
  | [.word k] =>
    if k = ['I', 'D', 'L', 'E'] then some .idle
    else if k = ['D', 'C', 'C', 'R', 'E', 'S', 'E', 'T'] then some .dccReset
    else none
  | [.word k, .word w] =>
    if k = ['B', 'S', 'T', 'O', 'P'] then
      if w = ['S', 'T', 'O', 'P'] then some (.bstop false)
      else if w = ['E', 'S', 'T', 'O', 'P'] then some (.bstop true)
      else none
    else if k = ['D', 'E', 'S', 'C'] then hexWord w
    else none
  | [.word k, .word a, .comma, .word d, .comma, .word n] =>
    if k = ['S', 'P', 'E', 'E', 'D'] then
      match number a, parseDir d, number n with
      | some a, some d, some n => some (.speed a d n)
      | _, _, _ => none
    else none
  | [.word k, .lbrack, .rbrack] => if k = ['S', 'V', 'C'] then some (.svc []) else none
  | .word k :: .lbrack :: rest => if k = ['S', 'V', 'C'] then (svcItems rest).map .svc else none
  | _ => none

/-- `op` from its tokens. -/
def parseOp : List Token → Option AsmOp
  | [.word k] =>
    if k = ['N', 'O', 'P'] then some .nop
    else if k = ['A', 'D', 'V', 'A', 'N', 'C', 'E'] then some .advance
    else if k = ['R', 'E', 'S', 'E', 'T'] then some .reset
    else if k = ['F', 'R', 'A', 'M', 'E'] then some .frame
    else none
  | .word k :: rest =>
    if k = ['O', 'F', 'F', 'E', 'R'] then (parsePacket rest).map .offer
    else if k = ['A', 'D', 'V', 'A', 'N', 'C', 'E', '+', 'O', 'F', 'F', 'E', 'R'] then
      (parsePacket rest).map .advanceOffer
    else if k = ['A', 'D', 'V', 'A', 'N', 'C', 'E'] then
      match rest with
      | [.word ('x' :: n)] => if n = [] then none else (digits 10 0 n).map .advanceTimes
      | _ => none
    else none
  | _ => none

/-- A line: an optional label, an operation, an optional comment (30 R94). The grammar does not define the form of a
label: any single word before a colon is one, and it is dropped. DESIGN CHOICE, safe: log entry 15. -/
def parseLine (line : List Char) : Option AsmOp :=
  match tokenize [] line with
  | .word _ :: .colon :: rest => parseOp rest
  | tokens => parseOp tokens

/-- The samples a line of text stands for. -/
def assembleLine (s : State) (line : List Char) : Assembled (List PortSample) :=
  match parseLine line with
  | some op => assembleOp s op
  | none => .error .badLine

end Sys2Proof.Machine
end

