-- ==== Sys2Proof/Machine/Cursor.lean ====
section
/-! DEFINITION. The hardware encoding of the cursor's phase (spec 10_state.md R31; 93_implementation_defined.md
I17, I18). State holds the phase itself; this is how the registers spell it. -/

namespace Sys2Proof.Machine

/-- The registers `kind[2:0]`, `cnt[7:0]`, `idx` and `bit[2:0]` (10 R31). -/
structure CursorBits where
  kind : BitVec 3
  cnt : BitVec 8
  idx : Nat
  bit : BitVec 3
  deriving DecidableEq, Repr

/-- The phase the registers spell; the unused kinds 5 to 7 spell none. -/
def phaseOfBits (c : CursorBits) : Option Phase :=
  match c.kind.toNat with
  | 0 => some (.pre c.cnt.toNat)
  | 1 => some .start
  | 2 => some (.data c.idx c.bit.toNat)
  | 3 => some (.sep c.idx)
  | 4 => some .endBit
  | _ => none

/-- The registers that spell a phase. The fields its kind does not use hold whatever `unused` holds: no rule
reads them (10 R31). -/
def bitsOfPhase (unused : CursorBits) : Phase → CursorBits
  | .pre k => { unused with kind := 0, cnt := BitVec.ofNat 8 k }
  | .start => { unused with kind := 1 }
  | .data i b => { unused with kind := 2, idx := i, bit := BitVec.ofNat 3 b }
  | .sep i => { unused with kind := 3, idx := i }
  | .endBit => { unused with kind := 4 }

end Sys2Proof.Machine
end

