-- ==== Sys2Proof/Machine/Observe.lean ====
section
/-! DEFINITION. What a claim observes: the `(pin, dly)` pairs of the ADVANCE operations (spec 00_scope.md R16). -/

namespace Sys2Proof.Machine

/-- `n` ADVANCEs on their own: the state they reach and the `(pin, dly)` pairs they put on the ports. `none` if
one of them does not answer a next state. -/
def runAdvances : Nat → State → Option (State × List (Bool × Micros))
  | 0, s => some (s, [])
  | n + 1, s =>
    match exec (.advance none) s with
    | .next t => (runAdvances n t).map fun r => (r.1, (t.pin, t.dly) :: r.2)
    | .fault _ => none
    | .refused _ => none

/-- `m` edges of the machine: the state they reach, and the `(pin, dly)` pair after each edge at which an ADVANCE
ran. `none` if an edge does not answer a next state. -/
def observe : Nat → State → Option (State × List (Bool × Micros))
  | 0, s => some (s, [])
  | m + 1, s =>
    match step s with
    | .next t =>
      (observe m t).map fun r =>
        (r.1, match fetch s with | .advance _ => (t.pin, t.dly) :: r.2 | _ => r.2)
    | .fault _ => none
    | .refused _ => none

end Sys2Proof.Machine
end

