-- ==== Sys2Proof/Safety.lean ====
section
/-! DEFINITION. What a safe state and a safe outcome are, in the terms the statements use (spec 10_state.md R33;
60_exceptions.md R192; 70_reset_and_hazards.md R223, R225). -/

namespace Sys2Proof

/-- A state the block can be in: a legal configuration (00 R7; 70 R225) and the invariant (10 R33). -/
def Safe (s : Machine.State) : Prop := Machine.legal s.cfg = true ∧ Machine.inv s = true

/-- The start of a frame: the first half of its first preamble bit (41 R147). -/
def AtFrameStart (s : Machine.State) : Prop :=
  s.phase = .pre (Machine.preLen s.cfg s.cur.cls) ∧ s.half = .h1

/-- The next ADVANCE performs the boundary handoff (42 R160, R161). -/
def AtBoundary (s : Machine.State) : Prop := s.phase = .endBit ∧ s.half = .h2

/-- What an OFFER of a frame `F` leaves (42 R162): the slot filled and `ACCEPTED`; on a full slot `REPLACED` or
`REJECTED_FULL` by the policy. Every element not written here is unchanged. -/
def LeavesOffer (s t : Machine.State) (F : Machine.Frame) : Prop :=
  (s.pend.valid = false → t = { s with pend := ⟨true, F⟩, ost := .accepted }) ∧
  (s.pend.valid = true → s.cfg.mboxPolicy = .overwrite →
    t = { s with pend := ⟨true, F⟩, ost := .replaced }) ∧
  (s.pend.valid = true → s.cfg.mboxPolicy = .reject → t = { s with ost := .rejectedFull })

/-- The frame is these bytes, checksum included, with this class (10 R21). It says nothing of the bytes past them. -/
def HoldsFrame (F : Machine.Frame) (sent : List Byte) (cls : Machine.FrameClass) : Prop :=
  F.len = sent.length ∧ F.sent = sent ∧ F.cls = cls

/-- Two registers hold the same frame, whatever lies past its bytes (00 R13). -/
def SameFrame (F G : Machine.Frame) : Prop := F.len = G.len ∧ F.sent = G.sent ∧ F.cls = G.cls

/-- Two states differ at most in what no rule reads: bytes past a frame's own (00 R13), the frame of an empty slot
(10 R25), and the count of free values. -/
def SameButUnread (s u : Machine.State) : Prop :=
  s.cfg = u.cfg ∧ SameFrame s.cur u.cur ∧ s.phase = u.phase ∧ s.half = u.half ∧
  s.pend.valid = u.pend.valid ∧ (s.pend.valid = true → SameFrame s.pend.frame u.pend.frame) ∧
  s.pin = u.pin ∧ s.dly = u.dly ∧ s.ost = u.ost ∧ s.inputs = u.inputs

end Sys2Proof
end

