-- ==== Sys2Proof/Certificates/Slice0/Obligations.lean ====
section
/-! DEFINITION. The statements for the provers, from the spec's numbered rules. -/

open Sys2Proof Sys2Proof.Machine

/-! ## The clock edge and the encodings -/

/-- 30 R92. At a clock edge the block performs the operation its sampled ports select. The list of samples is the
model's own (log entry 2); past its end the edge is a NOP. -/
def Obligations.StepRunsTheSampledOperation : Prop :=
  ∀ s : State, legal s.cfg = true →
    (∀ x rest, s.inputs = x :: rest → step s = exec (decodeSample x) (s.setInputs rest)) ∧
    (s.inputs = [] → step s = exec .nop s)

/-- 30 R93, as edges of the machine: every control vector, with any descriptor on the wires. -/
def Obligations.EveryControlVectorHasItsMeaning : Prop :=
  ∀ (s : State) (d : Desc) (rest : List PortSample), legal s.cfg = true →
    let edge := fun c : BitVec 3 => step (s.setInputs (portSampleOf c d :: rest))
    let s' := s.setInputs rest
    edge 0b000 = exec .nop s' ∧
    edge 0b001 = exec (.offer d) s' ∧
    edge 0b010 = exec (.advance none) s' ∧
    edge 0b011 = (match exec (.advance none) s' with
      | .next t => exec (.offer d) t
      | .fault f => .fault f
      | .refused r => .refused r) ∧
    (∀ c : BitVec 3, c.getLsbD 2 = true → edge c = exec .reset s')

/-- 95 section 2.1 and 30 R92: words written out from the spec decode to the instruction they stand for. That a table
word of at most 8 bits is a control vector, and comes with a descriptor of zeros, is the model's choice (log entry 9). -/
def Obligations.WordsOfTheSpecDecode : Prop :=
  decodePacket 5 (bytesOfWord 7 0x000000010E0300) = .ok (.speedDir 3 14 true) ∧
  decodePacket 5 (bytesOfWord 7 0x000000001C7F00) = .ok (.speedDir 127 28 false) ∧
  decodePacket 5 (bytesOfWord 7 0xFFFFFFFE0E0300) = .ok (.speedDir 3 14 false) ∧
  decodePacket 5 (bytesOfWord 7 0xFFFFFFFFFFFF01) = .ok .idle ∧
  decodePacket 5 (bytesOfWord 7 0x00000000000002) = .ok .dccReset ∧
  decodePacket 5 (bytesOfWord 7 0x00000000000103) = .ok (.bcastStop true) ∧
  decodePacket 5 (bytesOfWord 7 0x000005007C0304) = .ok (.svcMode 3 [0x7C, 0x00, 0x05, 0x00, 0x00]) ∧
  decodePacket 5 (bytesOfWord 7 0x00000000000005) = .error (.reservedTag 5) ∧
  decodeTableWord 8 0b000 = some .nop ∧
  decodeTableWord 8 0b010 = some (.advance none) ∧
  decodeTableWord 8 0b001 = some (.offer (zeroDesc 7)) ∧
  decodeTableWord 8 0b100 = some .reset

/-- Decode and encode agree for every well-formed instruction, at every legal `MAX_PAYLOAD`: a port operation by its
sample, a packet command by its descriptor, which an OFFER presents (30 R86 to R93; log entry 7). -/
def Obligations.DecodeOfEncodeIsTheInstruction : Prop :=
  ∀ (maxPayload : Nat) (i : Instr), 2 ≤ maxPayload → i.wellFormed maxPayload = true →
    (i.isPacket = false → decodeSample (encode maxPayload i) = i) ∧
    (i.isPacket = true →
      decodePacket maxPayload (encode maxPayload i).desc = .ok i ∧
      decodeSample (encode maxPayload i) = .offer (encode maxPayload i).desc)

/-- 30 R91, from the other side: re-encoding a descriptor clears its unused bits and builds the same. That the two registers
agree past the frame's own bytes too is the model's choice (log entry 3). -/
def Obligations.ReencodedDescriptorBuildsTheSame : Prop :=
  ∀ (maxPayload : Nat) (d : Desc) (i : Instr), 2 ≤ maxPayload → decodePacket maxPayload d = .ok i →
    build maxPayload (encodeDesc maxPayload i) = build maxPayload d

/-- 30 R91: reserved tags build to `OutOfRange`; ignored bits and unused payload bytes never matter. That the two registers
agree past the frame's own bytes too is the model's choice (log entry 3). -/
def Obligations.IgnoredDescriptorBitsDoNotMatter : Prop :=
  ∀ (maxPayload : Nat) (d e : Desc), descTag d = descTag e →
    (5 ≤ (descTag d).toNat → ∃ r, build maxPayload d = .outOfRange r) ∧
    (descTag d = 0x00 → descAddr d = descAddr e → descSpeed d = descSpeed e → descDir d = descDir e →
      build maxPayload d = build maxPayload e) ∧
    (descTag d = 0x01 ∨ descTag d = 0x02 → build maxPayload d = build maxPayload e) ∧
    (descTag d = 0x03 → descEmergency d = descEmergency e → build maxPayload d = build maxPayload e) ∧
    (descTag d = 0x04 → descLen d = descLen e →
      (∀ j, j < (descLen d).toNat → descByte d (2 + j) = descByte e (2 + j)) →
      build maxPayload d = build maxPayload e)

/-- 30 R96, 40 R118: an OFFER whose descriptor spells a packet command does what the packet command does. That a
packet command is an instruction of its own is the model's choice (log entry 7), and so is that the two leave the same
bytes past the frame's own (log entry 3). -/
def Obligations.OfferRunsThePacketCommandItCarries : Prop :=
  ∀ (s : State) (d : Desc) (i : Instr), decodePacket s.cfg.maxPayload d = .ok i →
    exec (.offer d) s = exec i s

/-- 10 R31: the ranges of the cursor inside `Inv`, and its hardware encoding. Each kind has its number, every phase in
range is read back from its registers whatever the unused fields hold, the unused kinds spell no phase, and the fields
a kind does not use are never read. -/
def Obligations.CursorRegistersSpellThePhase : Prop :=
  (∀ s : State, inv s = true →
    (∀ k, s.phase = .pre k → 1 ≤ k ∧ k ≤ preLen s.cfg s.cur.cls) ∧
    (∀ i b, s.phase = .data i b → i + 1 ≤ s.cur.len ∧ b ≤ 7) ∧
    (∀ i, s.phase = .sep i → i + 2 ≤ s.cur.len)) ∧
  (∀ (c : CursorBits) (k i b : Nat),
    (phaseOfBits c = some (.pre k) ↔ c.kind.toNat = 0 ∧ c.cnt.toNat = k) ∧
    (phaseOfBits c = some .start ↔ c.kind.toNat = 1) ∧
    (phaseOfBits c = some (.data i b) ↔ c.kind.toNat = 2 ∧ c.idx = i ∧ c.bit.toNat = b) ∧
    (phaseOfBits c = some (.sep i) ↔ c.kind.toNat = 3 ∧ c.idx = i) ∧
    (phaseOfBits c = some .endBit ↔ c.kind.toNat = 4)) ∧
  (∀ (p : Params) (F : Frame) (ph : Phase) (unused : CursorBits), legal p = true →
    phaseOk p F ph = true → phaseOfBits (bitsOfPhase unused ph) = some ph) ∧
  (∀ c : CursorBits, 5 ≤ c.kind.toNat ↔ phaseOfBits c = none) ∧
  (∀ c c' : CursorBits, c.kind = c'.kind →
    (c.kind.toNat = 0 → c.cnt = c'.cnt) →
    (c.kind.toNat = 2 → c.idx = c'.idx ∧ c.bit = c'.bit) →
    (c.kind.toNat = 3 → c.idx = c'.idx) → phaseOfBits c = phaseOfBits c')

/-! ## The packet builder -/

/-- 40 R112, 30 R74, R75, R76: SPEED_DIR with operands in range, from every state. The data byte is `01DCSSSS`, with
`(C, SSSS) = ((n+3)[0], (n+3)[4:1])`, written here as numbers. That the packet command as an instruction of its own is
an OFFER is the model's choice (log entry 7), and that OFFER acts on every state is read from the spec (log entry 16). -/
def Obligations.SpeedDirOffersItsFrame : Prop :=
  ∀ (s : State) (addr speed : Byte) (dir : Bool),
    1 ≤ addr.toNat → addr.toNat ≤ 127 → speed.toNat ≤ 28 →
    ∃ t F b, exec (.speedDir addr speed dir) s = .next t ∧ LeavesOffer s t F ∧
      HoldsFrame F [addr, b, addr ^^^ b] .ops ∧
      (speed.toNat = 0 → b.toNat = 64 + 32 * dir.toNat) ∧
      (1 ≤ speed.toNat → b.toNat =
        64 + 32 * dir.toNat + 16 * ((speed.toNat + 3) % 2) + (speed.toNat + 3) / 2)

/-- 40 R112: SPEED_DIR with an operand out of range. The address is checked first, and only `OST` changes. That the
packet command as an instruction of its own is an OFFER is the model's choice (log entry 7; every state: entry 16). -/
def Obligations.SpeedDirOutOfRangeOnlySetsTheStatus : Prop :=
  ∀ (s : State) (addr speed : Byte) (dir : Bool),
    (addr.toNat = 0 ∨ 127 < addr.toNat → buildSpeedDir s.cfg.maxPayload addr speed dir = .outOfRange .addr) ∧
    (1 ≤ addr.toNat → addr.toNat ≤ 127 → 28 < speed.toNat →
      buildSpeedDir s.cfg.maxPayload addr speed dir = .outOfRange .speed) ∧
    (addr.toNat = 0 ∨ 127 < addr.toNat ∨ 28 < speed.toNat →
      exec (.speedDir addr speed dir) s = .next { s with ost := .outOfRange })

/-- 40 R113, R114, R115: the packet commands that cannot fail, from every state. That each as an instruction of its own
is an OFFER is the model's choice (log entry 7; every state: entry 16). -/
def Obligations.FixedPacketsOfferTheirFrames : Prop :=
  ∀ s : State,
    (∃ t F, exec .idle s = .next t ∧ LeavesOffer s t F ∧ HoldsFrame F [0xFF, 0x00, 0xFF] .ops) ∧
    (∃ t F, exec .dccReset s = .next t ∧ LeavesOffer s t F ∧ HoldsFrame F [0x00, 0x00, 0x00] .ops) ∧
    (∃ t F, exec (.bcastStop false) s = .next t ∧ LeavesOffer s t F ∧ HoldsFrame F [0x00, 0x50, 0x50] .ops) ∧
    (∃ t F, exec (.bcastStop true) s = .next t ∧ LeavesOffer s t F ∧ HoldsFrame F [0x00, 0x51, 0x51] .ops)

/-- 40 R116, R111: SVC_MODE with any length field and any payload bytes on the port, from every state. That the packet
command as an instruction of its own is an OFFER is the model's choice (log entry 7; every state: entry 16). -/
def Obligations.SvcModeOffersItsFrame : Prop :=
  ∀ (s : State) (len : Byte) (payload : List Byte), payload.length = s.cfg.maxPayload →
    (1 ≤ len.toNat → len.toNat ≤ s.cfg.maxPayload →
      ∃ t F, exec (.svcMode len payload) s = .next t ∧ LeavesOffer s t F ∧
        F.len = len.toNat + 1 ∧
        HoldsFrame F (payload.take len.toNat ++ [(payload.take len.toNat).foldl (· ^^^ ·) 0]) .svc) ∧
    (len.toNat = 0 ∨ s.cfg.maxPayload < len.toNat →
      buildSvcMode s.cfg.maxPayload len payload = .outOfRange .len ∧
      exec (.svcMode len payload) s = .next { s with ost := .outOfRange })

/-- 60 R191, 40 R112, R116, R117, 42 R162: exactly these four conditions raise `OutOfRange`, each with its reason, `ADDR`
before `SPEED`, and OFFER reports every one as `OST = 0b100` with no other state change. That it does so from every
state, outside `Inv` too, is read from the spec by inference (log entry 16). -/
def Obligations.OutOfRangeHasFourCauses : Prop :=
  (∀ (maxPayload : Nat) (d : Desc),
    (build maxPayload d = .outOfRange .addr ↔
      descTag d = 0x00 ∧ ((descAddr d).toNat = 0 ∨ 127 < (descAddr d).toNat)) ∧
    (build maxPayload d = .outOfRange .speed ↔
      descTag d = 0x00 ∧ 1 ≤ (descAddr d).toNat ∧ (descAddr d).toNat ≤ 127 ∧ 28 < (descSpeed d).toNat) ∧
    (build maxPayload d = .outOfRange .len ↔
      descTag d = 0x04 ∧ ((descLen d).toNat = 0 ∨ maxPayload < (descLen d).toNat)) ∧
    (build maxPayload d = .outOfRange .tag ↔ 5 ≤ (descTag d).toNat)) ∧
  (∀ (s : State) (d : Desc) (r : OutOfRange), build s.cfg.maxPayload d = .outOfRange r →
    exec (.offer d) s = .next { s with ost := .outOfRange }) ∧
  OfferStatus.outOfRange.code = 0b100

/-- 40 R119, 20 R50: every frame the builder returns, in a register of `FRAME_MAX` bytes. -/
def Obligations.EveryBuiltFrameHasAGoodChecksum : Prop :=
  ∀ (maxPayload : Nat) (d : Desc) (F : Frame), 2 ≤ maxPayload → build maxPayload d = .ok F →
    F.sent.foldl (· ^^^ ·) 0 = 0 ∧
    2 ≤ F.len ∧ F.len ≤ maxPayload + 1 ∧ F.sent.length = F.len ∧ F.bytes.length = maxPayload + 1 ∧
    F.sent.getLast? = some (F.sent.dropLast.foldl (· ^^^ ·) 0)

/-- 30 R82, R85: class and length are fixed per variant. -/
def Obligations.ClassAndLengthFollowTheVariant : Prop :=
  ∀ (maxPayload : Nat) (d : Desc) (F : Frame), build maxPayload d = .ok F →
    (descTag d = 0x04 → F.cls = .svc ∧ F.len = (descLen d).toNat + 1) ∧
    (descTag d ≠ 0x04 → F.cls = .ops ∧ F.len = 3)

/-- 30 R83: the first-byte values the block produces; a service-mode descriptor of the port can begin with any. -/
def Obligations.FirstByteValues : Prop :=
  (∀ (maxPayload : Nat) (d : Desc) (F : Frame), build maxPayload d = .ok F →
    (descTag d = 0x00 → ∃ b, frameByte F 0 = some b ∧ 1 ≤ b.toNat ∧ b.toNat ≤ 0x7F) ∧
    (descTag d = 0x01 → frameByte F 0 = some 0xFF) ∧
    (descTag d = 0x02 ∨ descTag d = 0x03 → frameByte F 0 = some 0x00) ∧
    (descTag d ≠ 0x04 → ∀ b, frameByte F 0 = some b → b.toNat < 0x80 ∨ b.toNat = 0xFF)) ∧
  (∀ (maxPayload : Nat) (b : Byte), 2 ≤ maxPayload →
    ∃ d F, d.length = descBytes maxPayload ∧ descTag d = 0x04 ∧ build maxPayload d = .ok F ∧
      frameByte F 0 = some b)

/-- 30 R77, R84: SPEED_DIR never emits the stop-(I) and emergency-stop codes; BCAST_STOP emits its two. -/
def Obligations.ReservedSpeedCodesAreNeverSent : Prop :=
  ∀ (maxPayload : Nat) (d : Desc) (F : Frame), build maxPayload d = .ok F →
    (descTag d = 0x00 → ∃ b, frameByte F 1 = some b ∧
      (readSpeedDataByte b).2 ≠ 0b00001 ∧ (readSpeedDataByte b).2 ≠ 0b10000 ∧
      (readSpeedDataByte b).2 ≠ 0b10001) ∧
    (descTag d = 0x03 → ∃ b, frameByte F 1 = some b ∧
      (readSpeedDataByte b).2 = if descEmergency d then 0b10001 else 0b10000)

/-- 40 R122 and 95 W1: the 28-step code reads back, for both directions. -/
def Obligations.SpeedCodeReadsBack : Prop :=
  ∀ n, n ≤ 28 → ∀ dir : Bool,
    speedDecode (speedCode n) = (if n = 0 then .stop false else .stepTo n) ∧
    readSpeedDataByte (speedDataByte dir (speedCode n)) = (dir, speedCode n)

/-! ## The bit and pulse-timing encoder -/

/-- 41 R148, 30 R71: counts and duration of every non-empty frame in a register that has its bytes, at all parameters, and
the two examples, whatever lies past their bytes. -/
def Obligations.FrameCountsAndTime : Prop :=
  (∀ (p : Params) (F : Frame), 1 ≤ F.len → F.len ≤ F.bytes.length →
    (wireBits p F).length = preLen p F.cls + 9 * F.len + 1 ∧
    (pulseTrain p F).length = halfBits p F ∧
    (wireBits p F).count true = preLen p F.cls + frameWeight F + 1 ∧
    (wireBits p F).count false = 9 * F.len - frameWeight F ∧
    ((pulseTrain p F).map fun x => x.2.toNat).sum = frameTime p F) ∧
  (∀ F : Frame, HoldsFrame F [0xFF, 0x00, 0xFF] .ops →
    frameWeight F = 16 ∧ halfBits Params.default F = 76 ∧ frameTime Params.default F = 5332) ∧
  (∀ F : Frame, HoldsFrame F [0x00, 0x00, 0x00] .ops →
    frameWeight F = 0 ∧ halfBits Params.default F = 76 ∧ frameTime Params.default F = 6676)

/-- 41 R147, 30 R70, R72, 20 R57: from the start of a frame, `HalfBits` ADVANCEs emit exactly its pulse train, high then
low for each bit of `Bits(F)`, and end at the start of the frame that the handoff selects. -/
def Obligations.AdvancesEmitTheWholeFrame : Prop :=
  ∀ s : State, inv s = true → AtFrameStart s →
    runAdvances (halfBits s.cfg s.cur) s =
      some ({ s with
        cur := if s.pend.valid then s.pend.frame else s.cur
        phase := .pre (preLen s.cfg (if s.pend.valid then s.pend.frame else s.cur).cls)
        half := .h1
        pend := { s.pend with valid := false }
        pin := false
        dly := s.cfg.tOneUs }, pulseTrain s.cfg s.cur)

/-! ## The transmission engine -/

/-- 42 R160, R169, 41 R142, R143, R144: inside `Inv` ADVANCE completes and writes the level of its half and the duration
of the due bit. -/
def Obligations.AdvanceWritesPinAndDelay : Prop :=
  ∀ s : State, inv s = true → ∃ t, exec (.advance none) s = .next t ∧
    (s.half = .h1 → t.pin = true) ∧ (s.half = .h2 → t.pin = false) ∧
    (∀ k, s.phase = .pre k → t.dly = s.cfg.tOneUs) ∧
    (s.phase = .start → t.dly = s.cfg.tZeroUs) ∧
    (∀ i b, s.phase = .data i b → ∃ x, frameByte s.cur i = some x ∧
      t.dly = if x.getLsbD b then s.cfg.tOneUs else s.cfg.tZeroUs) ∧
    (∀ i, s.phase = .sep i → t.dly = s.cfg.tZeroUs) ∧
    (s.phase = .endBit → t.dly = s.cfg.tOneUs)

/-- 41 R145, 42 R160: the cursor steps by one half-bit, in encoding order. -/
def Obligations.AdvanceStepsTheCursor : Prop :=
  ∀ s : State, inv s = true → ∃ t, exec (.advance none) s = .next t ∧
    (s.half = .h1 → t.half = .h2 ∧ t.phase = s.phase) ∧
    (s.half = .h2 → t.half = .h1 ∧
      (∀ k, s.phase = .pre k → 1 < k → t.phase = .pre (k - 1)) ∧
      (s.phase = .pre 1 → t.phase = .start) ∧
      (s.phase = .start → t.phase = .data 0 7) ∧
      (∀ i b, s.phase = .data i b → 0 < b → t.phase = .data i (b - 1)) ∧
      (∀ i, s.phase = .data i 0 → i + 1 < s.cur.len → t.phase = .sep i) ∧
      (∀ i, s.phase = .data i 0 → i + 1 = s.cur.len → t.phase = .endBit) ∧
      (∀ i, s.phase = .sep i → t.phase = .data (i + 1) 7) ∧
      (s.phase = .endBit → ∃ k, t.phase = .pre k))

/-- 42 R161: the boundary handoff installs the waiting packet, or re-arms the current one. -/
def Obligations.HandoffInstallsOrRetransmits : Prop :=
  ∀ s : State, inv s = true → AtBoundary s →
    (s.pend.valid = true → exec (.advance none) s = .next { s with
      cur := s.pend.frame, phase := .pre (preLen s.cfg s.pend.frame.cls), half := .h1,
      pend := { s.pend with valid := false }, pin := false, dly := s.cfg.tOneUs }) ∧
    (s.pend.valid = false → exec (.advance none) s = .next { s with
      phase := .pre (preLen s.cfg s.cur.cls), half := .h1, pin := false, dly := s.cfg.tOneUs })

/-- 42 R160, "State written": the frame of ADVANCE, away from a boundary and at one. -/
def Obligations.AdvanceFrame : Prop :=
  ∀ s t : State, exec (.advance none) s = .next t →
    t.ost = s.ost ∧ t.pend.frame = s.pend.frame ∧
    t.cfg = s.cfg ∧ t.inputs = s.inputs ∧ t.draws = s.draws ∧
    (s.half = .h1 → t.phase = s.phase) ∧
    (¬ AtBoundary s → t.cur = s.cur ∧ t.pend = s.pend) ∧
    (s.pend.valid = false → t.cur = s.cur ∧ t.pend = s.pend)

/-- 60 R192: ADVANCE, alone or with an OFFER, faults with `BAD_STATE` outside `Inv`, and only there. -/
def Obligations.AdvanceFaultsExactlyOutsideInv : Prop :=
  ∀ (s : State) (off : Option Desc),
    (inv s = false → exec (.advance off) s = .fault .badState) ∧
    (inv s = true → ∃ t, exec (.advance off) s = .next t)

/-- 42 R168: every ADVANCE is a transition of the pin, and from reset the first one takes it from 0 to 1. -/
def Obligations.EveryAdvanceTogglesThePin : Prop :=
  (∀ (s : State) (off : Option Desc), inv s = true →
    ∃ t, exec (.advance off) s = .next t ∧ t.pin = !s.pin) ∧
  State.reset.pin = false ∧
  (∃ t, exec (.advance none) State.reset = .next t ∧ t.pin = true)

/-- 42 R163: NOP, from every state (log entry 16). -/
def Obligations.NopHoldsEverything : Prop :=
  ∀ s : State, ∃ t, exec .nop s = .next t ∧ t = s ∧ outputs t = outputs s

/-- 42 R162: OFFER completes from every state with every descriptor, and leaves what the rule says. That it does so
outside `Inv` too is read from the spec by inference (log entry 16). -/
def Obligations.OfferWritesTheMailbox : Prop :=
  ∀ (s : State) (d : Desc),
    (∀ F, build s.cfg.maxPayload d = .ok F → ∃ t, exec (.offer d) s = .next t ∧ LeavesOffer s t F) ∧
    (∀ r, build s.cfg.maxPayload d = .outOfRange r →
      exec (.offer d) s = .next { s with ost := .outOfRange })

/-- 42 R162, 10 R37: the frame of OFFER and of the packet commands, in every state (log entry 16): only `PEND` and `OST`
may change. That a packet command as an instruction of its own is an OFFER is the model's choice (log entry 7). -/
def Obligations.OfferFrame : Prop :=
  ∀ (i : Instr) (s : State), i.isPacket = true ∨ (∃ d, i = .offer d) →
    ∃ t, exec i s = .next t ∧ t.cfg = s.cfg ∧ t.cur = s.cur ∧ t.phase = s.phase ∧ t.half = s.half ∧
      t.pin = s.pin ∧ t.dly = s.dly ∧ t.inputs = s.inputs ∧ t.draws = s.draws ∧
      (t.ost = .outOfRange ∨ t.ost = .rejectedFull → t.pend = s.pend) ∧
      (t.ost = .accepted ∨ t.ost = .replaced → t.pend.valid = true)

/-- 42 R164: ADVANCE and OFFER at one edge, and the rule's two consequences at a boundary. -/
def Obligations.SameEdgeAdvanceRunsFirst : Prop :=
  ∀ (s : State) (d : Desc),
    exec (.advance (some d)) s = (match exec (.advance none) s with
      | .next t => exec (.offer d) t
      | .fault f => .fault f
      | .refused r => .refused r) ∧
    (∀ F, inv s = true → AtBoundary s → s.pend.valid = true → build s.cfg.maxPayload d = .ok F →
      ∃ t, exec (.advance (some d)) s = .next t ∧ t.cur = s.pend.frame ∧ t.pend = ⟨true, F⟩ ∧
        t.ost = .accepted) ∧
    (∀ F, inv s = true → AtBoundary s → s.pend.valid = false → build s.cfg.maxPayload d = .ok F →
      ∃ t, exec (.advance (some d)) s = .next t ∧ t.cur = s.cur ∧ t.pend = ⟨true, F⟩ ∧ t.ost = .accepted)

/-- 10 R28, R29, R30, R39: in every state the four output ports show `PIN`, `DLY`, `PEND.valid` and the code of `OST`; the
codes on `ost[2:0]`. -/
def Obligations.OfferStatusCodes : Prop :=
  OfferStatus.none.code = 0b000 ∧ OfferStatus.accepted.code = 0b001 ∧
  OfferStatus.replaced.code = 0b010 ∧ OfferStatus.rejectedFull.code = 0b011 ∧
  OfferStatus.outOfRange.code = 0b100 ∧
  ∀ s : State, (outputs s).ost.toNat < 5 ∧
    (outputs s).pin = s.pin ∧ (outputs s).dly = s.dly ∧ (outputs s).pendFull = s.pend.valid ∧
    (outputs s).ost = s.ost.code

/-! ## Reset -/

/-- 70 R220, 10 R38: RESET from every state. `PEND.frame` is left unspecified: nothing is said of it but its size. -/
def Obligations.ResetEstablishesTheResetState : Prop :=
  ∀ s : State, legal s.cfg = true →
    ∃ F t, build s.cfg.maxPayload s.cfg.initDesc = .ok F ∧ exec .reset s = .next t ∧
      t.cur = F ∧ t.phase = .pre (preLen s.cfg F.cls) ∧ t.half = .h1 ∧
      t.pend.valid = false ∧ t.pend.frame.bytes.length = s.cfg.frameMax ∧
      t.pin = false ∧ t.dly = 0 ∧ t.ost = .none ∧ t.cfg = s.cfg ∧ t.inputs = s.inputs

/-- 10 R38 at the defaults, and the output ports there. RESET at the defaults answers this state, up to what no rule reads. -/
def Obligations.ResetValuesAtTheDefaults : Prop :=
  (∃ t, exec .reset State.reset = .next t ∧ SameButUnread t State.reset) ∧
  HoldsFrame State.reset.cur [0xFF, 0x00, 0xFF] .ops ∧ State.reset.phase = .pre 10 ∧
  State.reset.half = .h1 ∧ State.reset.pend.valid = false ∧ State.reset.pin = false ∧
  State.reset.dly = 0 ∧ State.reset.ost = .none ∧
  outputs State.reset = ⟨false, 0, false, 0b000⟩

/-- 70 R220, R221: nothing of the earlier state survives RESET but the configuration and what the environment drives next;
the unspecified content of `PEND.frame` is left open (log entry 4). That the bytes of `CUR` past its own agree too is the
model's choice (log entry 3). -/
def Obligations.ResetForgetsTheEarlierState : Prop :=
  ∀ s u : State, s.cfg = u.cfg → s.inputs = u.inputs →
    (∀ t, exec .reset s = .next t → ∃ v, exec .reset u = .next v ∧
      v = { t with pend := ⟨t.pend.valid, v.pend.frame⟩, draws := v.draws }) ∧
    (∀ r, exec .reset s = .refused r → exec .reset u = .refused r)

/-- 70 R225: a configuration whose `INIT_DESC` does not build is refused. -/
def Obligations.InitDescThatDoesNotBuildIsRefused : Prop :=
  ∀ (s : State) (r : OutOfRange), build s.cfg.maxPayload s.cfg.initDesc = .outOfRange r →
    step s = .refused .illegalConfig ∧ exec .reset s = .refused .illegalConfig

/-- 70 R222: the first frame on the wire after reset is `Build(INIT_DESC)`, from its first preamble half-bit, and it
repeats. -/
def Obligations.FirstFrameAfterResetIsTheInitialOne : Prop :=
  ∀ s : State, legal s.cfg = true →
    ∃ F r t u, build s.cfg.maxPayload s.cfg.initDesc = .ok F ∧ exec .reset s = .next r ∧
      runAdvances (halfBits s.cfg F) r = some (t, pulseTrain s.cfg F) ∧
      runAdvances (halfBits s.cfg F) t = some (u, pulseTrain s.cfg F) ∧ u = t

/-! ## Whole-machine rules -/

/-- 10 R35, 00 R7: no operation writes the configuration, and none touches what the environment drives later. -/
def Obligations.NoOperationWritesTheConfiguration : Prop :=
  ∀ (i : Instr) (s t : State), exec i s = .next t → t.cfg = s.cfg ∧ t.inputs = s.inputs

/-- 10 R22, R25, R26, R27, R28, R34: at a clock edge each element changes only by the operations that write it. -/
def Obligations.WritersOfEachElement : Prop :=
  ∀ (s t : State) (x : PortSample) (rest : List PortSample),
    s.inputs = x :: rest → step s = .next t →
    (t.cur ≠ s.cur → x.rst = true ∨ (x.adv = true ∧ AtBoundary s ∧ s.pend.valid = true)) ∧
    (t.phase ≠ s.phase ∨ t.half ≠ s.half ∨ t.pin ≠ s.pin ∨ t.dly ≠ s.dly →
      x.rst = true ∨ x.adv = true) ∧
    (t.pend ≠ s.pend → x.rst = true ∨ x.off = true ∨ (x.adv = true ∧ AtBoundary s)) ∧
    (t.pend.frame ≠ s.pend.frame → x.rst = true ∨ x.off = true) ∧
    (t.ost ≠ s.ost → x.rst = true ∨ x.off = true)

/-- 10 R33: reset establishes `Inv`. -/
def Obligations.ResetStateIsSafe : Prop :=
  Safe State.reset ∧ ∀ s t : State, legal s.cfg = true → exec .reset s = .next t → Safe t

/-- 10 R33: every edge of the machine preserves `Inv`, whatever the environment drives. -/
def Obligations.EveryEdgeKeepsInv : Prop :=
  ∀ s t : State, Safe s → step s = .next t → Safe t

/-- 10 R33, for every well-formed instruction of the table; for a packet command as an instruction of its own, which is an
OFFER, this is about the model's choice (log entry 7). -/
def Obligations.EveryInstructionKeepsInv : Prop :=
  ∀ (i : Instr) (s t : State), Safe s → i.wellFormed s.cfg.maxPayload = true → exec i s = .next t → Safe t

/-- 70 R223: the machine never stops from a safe state. -/
def Obligations.TheMachineNeverStops : Prop :=
  ∀ s : State, Safe s → ∃ t, step s = .next t

/-- 60 R192: no sequence of port operations after RESET reaches a state outside `Inv`, at any parameters. -/
def Obligations.NoRunFromResetReachesABadState : Prop :=
  ∀ (s r : State) (l : List PortSample) (n : Nat), legal s.cfg = true → exec .reset s = .next r →
    ∃ t, Host.Core.run core n (r.setInputs l) = .next t ∧ Safe t

/-- 10 R36, 20 R63: what waits in the mailbox is not visible in an ADVANCE, and not in the engine before the boundary. -/
def Obligations.WaitingPacketIsInvisibleBeforeTheBoundary : Prop :=
  ∀ (s : State) (p q : Slot), inv (s.setPend p) = true → inv (s.setPend q) = true →
    ∃ t u, exec (.advance none) (s.setPend p) = .next t ∧ exec (.advance none) (s.setPend q) = .next u ∧
      t.pin = u.pin ∧ t.dly = u.dly ∧ t.half = u.half ∧
      (¬ AtBoundary s → t.cur = u.cur ∧ t.phase = u.phase ∧ t.pend = p ∧ u.pend = q)

/-- 20 R59, R63, 60 R205: before the boundary's ADVANCE is over, NOP cycles and OFFERs between and beside the ADVANCEs
change nothing that the pin or the delay shows. -/
def Obligations.OffersAndPausesDoNotDisturbTheFrame : Prop :=
  ∀ (s : State) (l : List PortSample), Safe s → (∀ x ∈ l, x.rst = false) →
    l.countP (fun x => x.adv) ≤ halfBitsLeft s →
    ∃ t u tr, observe l.length (s.setInputs l) = some (t, tr) ∧
      runAdvances (l.countP fun x => x.adv) s = some (u, tr) ∧
      (l.countP (fun x => x.adv) < halfBitsLeft s →
        t.cur = u.cur ∧ t.phase = u.phase ∧ t.half = u.half)

/-- 20 R59, R62: the slot is not drained before the boundary, which comes after exactly `halfBitsLeft` ADVANCEs. -/
def Obligations.NoHandoffBeforeTheBoundary : Prop :=
  ∀ (s : State) (n : Nat), inv s = true → n < halfBitsLeft s →
    ∃ t tr, runAdvances n s = some (t, tr) ∧ t.cur = s.cur ∧ t.pend = s.pend ∧
      halfBitsLeft t + n = halfBitsLeft s ∧ (AtBoundary t ↔ n + 1 = halfBitsLeft s)

/-- 70 R231, 20 R62: an offer waits for at most the ADVANCEs of the current frame, at the defaults 76 for a 3-byte
ordinary frame. The last of them is the one that performs the handoff; those before it leave `CUR` and the slot alone. -/
def Obligations.WaitForTheBoundaryIsBounded : Prop :=
  ∀ s : State, inv s = true →
    ∃ n t tr, 1 ≤ n ∧ n ≤ halfBits s.cfg s.cur ∧
      (s.cfg = Params.default → s.cur.cls = .ops → s.cur.len = 3 → n ≤ 76) ∧
      n = halfBitsLeft s ∧
      runAdvances (n - 1) s = some (t, tr) ∧ AtBoundary t ∧ t.cur = s.cur ∧ t.pend = s.pend ∧
      ∃ u, exec (.advance none) t = .next u ∧ u.pend.valid = false ∧
        u.cur = if s.pend.valid then s.pend.frame else s.cur

/-- 42 R166, 20 R62: a waiting packet is installed at the next boundary, the slot is empty right after, and the packet is
then emitted whole. -/
def Obligations.WaitingPacketIsSentNext : Prop :=
  ∀ s : State, Safe s → s.pend.valid = true →
    ∃ t tr u, runAdvances (halfBitsLeft s) s = some (t, tr) ∧
      t.cur = s.pend.frame ∧ t.pend.valid = false ∧ AtFrameStart t ∧
      runAdvances (halfBits s.cfg s.pend.frame) t = some (u, pulseTrain s.cfg s.pend.frame)

/-- 42 R165: with nothing offered, the frame is sent again and again, bit for bit. -/
def Obligations.FrameIsRefreshedForEver : Prop :=
  ∀ (s : State) (n : Nat), Safe s → AtFrameStart s → s.pend.valid = false →
    ∃ t, runAdvances (n * halfBits s.cfg s.cur) s =
        some (t, (List.replicate n (pulseTrain s.cfg s.cur)).flatten) ∧
      t.cur = s.cur ∧ AtFrameStart t ∧ t.pend.valid = false

/-- 20 R58: an accepted packet goes out at the first boundary after its OFFER, whole, and nothing of it before. -/
def Obligations.AcceptedPacketIsSentWhole : Prop :=
  ∀ (s t : State) (d : Desc), Safe s → exec (.offer d) s = .next t →
    t.ost = .accepted ∨ t.ost = .replaced →
    ∃ F tr u u' v, build s.cfg.maxPayload d = .ok F ∧
      runAdvances (halfBitsLeft s) s = some (u', tr) ∧
      runAdvances (halfBitsLeft s) t = some (u, tr) ∧ u.cur = F ∧ u.pend.valid = false ∧
      runAdvances (halfBits s.cfg F) u = some (v, pulseTrain s.cfg F)

/-- 70 R229, 60 R199: holding `adv` for `m` cycles is `m` ADVANCEs. -/
def Obligations.HeldStrobeIsRepeatedAdvance : Prop :=
  ∀ (m : Nat) (s : State) (d : Desc), legal s.cfg = true →
    observe m (s.setInputs (List.replicate m ⟨false, true, false, d⟩)) = runAdvances m (s.setInputs [])

/-! ## The assembler -/

/-- 30 R94: SPEED and SVC lines encode their numbers, a number that does not fit its field and a list that does not fit
the payload are refused, and a value that fits but is out of range passes. That the empty list is accepted, with `L = 0`,
is read from a test vector against the grammar (log entry 15). -/
def Obligations.AssemblerEncodesItsNumbers : Prop :=
  ∀ maxPayload, 2 ≤ maxPayload → maxPayload ≤ 255 →
    (∀ a n fwd, a < 256 → n < 256 →
      ∃ d, assemblePacket maxPayload (.speed a fwd n) = .ok d ∧
        decodePacket maxPayload d = .ok (.speedDir (BitVec.ofNat 8 a) (BitVec.ofNat 8 n) fwd)) ∧
    (∀ a n fwd, 256 ≤ a ∨ 256 ≤ n →
      ∃ v, assemblePacket maxPayload (.speed a fwd n) = .error (.fieldTooWide v)) ∧
    (∀ bytes : List Nat, 1 ≤ bytes.length → bytes.length ≤ maxPayload → (∀ b ∈ bytes, b < 256) →
      ∃ d payload, assemblePacket maxPayload (.svc bytes) = .ok d ∧
        decodePacket maxPayload d = .ok (.svcMode (BitVec.ofNat 8 bytes.length) payload) ∧
        (payload.take bytes.length).map BitVec.toNat = bytes) ∧
    (∃ d payload, assemblePacket maxPayload (.svc []) = .ok d ∧
      decodePacket maxPayload d = .ok (.svcMode 0 payload)) ∧
    (∀ bytes : List Nat, bytes.length ≤ maxPayload → (∃ b ∈ bytes, 256 ≤ b) →
      ∃ v, v ∈ bytes ∧ 256 ≤ v ∧ assemblePacket maxPayload (.svc bytes) = .error (.fieldTooWide v)) ∧
    (∀ bytes : List Nat, maxPayload < bytes.length →
      assemblePacket maxPayload (.svc bytes) = .error (.svcTooLong bytes.length))

/-- 30 R95: the FRAME line is as many ADVANCE lines as end with the first handoff; from the start of a frame that is
`HalfBits(CUR)`. -/
def Obligations.FrameLineEndsAtTheHandoff : Prop :=
  ∀ s : State, inv s = true →
    ∃ n, assembleOp s .frame = .ok (List.replicate n (encode s.cfg.maxPayload (.advance none))) ∧
      (∃ t tr, runAdvances (n - 1) s = some (t, tr) ∧ AtBoundary t ∧ t.cur = s.cur) ∧
      (∀ m t tr, m + 1 < n → runAdvances m s = some (t, tr) → ¬ AtBoundary t) ∧ 1 ≤ n ∧
      (AtFrameStart s → n = halfBits s.cfg s.cur)

/-! ## What no rule reads -/

/-- 10 R25, R36, 00 R13, 93 I16: what no rule reads is never observed. Two runs that differ only in bytes past a frame's own
and in the frame of an empty slot show the same `(pin, dly)` pairs and the same outputs, whatever the environment drives. -/
def Obligations.UnreadContentIsNeverObserved : Prop :=
  ∀ (s u : State) (n : Nat), Safe s → Safe u → SameButUnread s u →
    ∃ t v tr, observe n s = some (t, tr) ∧ observe n u = some (v, tr) ∧ SameButUnread t v ∧ outputs t = outputs v
end

