-- ==== Sys2Proof/Laws/Frame.lean ====
section
/-! SUPPORT. The laws of frame registers and of the checksum: what `frameOf` and `unspecifiedFrame` fill, and the byte
read. Later proofs unfold none of them. -/

namespace Sys2Proof.Machine

/-- A checksum closes any payload to zero. -/
theorem xsum_append (l m : List Byte) : xsum (l ++ m) = xsum l ^^^ xsum m := by
  induction l with
  | nil => simp [xsum]
  | cons b r ih => simp [xsum, ih, BitVec.xor_assoc]

/-- The recursive sum is the fold from the left. -/
theorem foldl_xor_eq (l : List Byte) (a : Byte) : l.foldl (· ^^^ ·) a = a ^^^ xsum l := by
  induction l generalizing a with
  | nil => simp [xsum]
  | cons b r ih => simp [xsum, ih, BitVec.xor_assoc]

/-- `FrameByte` reads the bytes that hold the frame and no others (00 R12, R13). -/
theorem frameByte_eq (F : Frame) (i : Nat) : frameByte F i = F.sent[i]? := by
  simp [frameByte, Frame.sent, List.getElem?_take]

/-- The frame is `len` bytes long where the array has them. -/
theorem Frame.sent_length {F : Frame} (h : F.len ≤ F.bytes.length) : F.sent.length = F.len := by
  simp [Frame.sent, h]

section FrameOf
variable (maxPayload : Nat) (sent : List Byte) (cls : FrameClass)

@[simp] theorem frameOf_len : (frameOf maxPayload sent cls).len = sent.length := rfl
@[simp] theorem frameOf_cls : (frameOf maxPayload sent cls).cls = cls := rfl
@[simp] theorem frameOf_sent : (frameOf maxPayload sent cls).sent = sent := by
  simp [Frame.sent, frameOf, fillArray]

/-- A frame fills its register to `FRAME_MAX` bytes (20 R50). -/
theorem frameOf_bytes_length {maxPayload : Nat} {sent : List Byte} (h : sent.length ≤ maxPayload + 1) :
    (frameOf maxPayload sent cls).bytes.length = maxPayload + 1 := by
  simp [frameOf, fillArray]
  omega

end FrameOf

@[simp] theorem unspecifiedFrame_bytes_length (frameMax draw : Nat) :
    (unspecifiedFrame frameMax draw).bytes.length = frameMax := by simp [unspecifiedFrame]

/-- The three parts of condition 1 of 10 R33. -/
theorem frameOk_iff (p : Params) (F : Frame) :
    frameOk p F = true ↔ 2 ≤ F.len ∧ F.len ≤ p.frameMax ∧ xsum F.sent = 0 := by
  simp [frameOk, and_assoc]

theorem registerOk_iff (p : Params) (F : Frame) : registerOk p F = true ↔ F.bytes.length = p.frameMax := by
  simp [registerOk]

end Sys2Proof.Machine
end

