-- ==== Sys2Proof/Laws/Decode.lean ====
section
/-! SUPPORT. The laws of the bit-field helpers and of the control vector. -/

namespace Sys2Proof

/-- A port sample made from a control vector has that control vector. -/
@[simp] theorem portSampleOf_ctl (c : BitVec 3) (d : Desc) : (portSampleOf c d).ctl = c := by
  have h : ∀ c : BitVec 3,
      BitVec.ofBool (c.getLsbD 2) ++ BitVec.ofBool (c.getLsbD 1) ++ BitVec.ofBool (c.getLsbD 0) = c := by
    decide
  exact h c

@[simp] theorem portSampleOf_desc (c : BitVec 3) (d : Desc) : (portSampleOf c d).desc = d := rfl

@[simp] theorem decodeSample_portSampleOf (c : BitVec 3) (d : Desc) :
    decodeSample (portSampleOf c d) = decodeCtl c d := by simp [decodeSample]

/-! The five meanings of 30 R93. -/

@[simp] theorem decodeCtl_nop (d : Desc) : decodeCtl 0#3 d = .nop := by
  rw [decodeCtl, if_neg (by decide), if_neg (by decide), if_neg (by decide)]

@[simp] theorem decodeCtl_offer (d : Desc) : decodeCtl 1#3 d = .offer d := by
  rw [decodeCtl, if_neg (by decide), if_neg (by decide), if_pos (by decide)]

@[simp] theorem decodeCtl_advance (d : Desc) : decodeCtl 2#3 d = .advance none := by
  rw [decodeCtl, if_neg (by decide), if_pos (by decide), if_neg (by decide)]

@[simp] theorem decodeCtl_advance_offer (d : Desc) : decodeCtl 3#3 d = .advance (some d) := by
  rw [decodeCtl, if_neg (by decide), if_pos (by decide), if_pos (by decide)]

theorem decodeCtl_reset {c : BitVec 3} (h : c.getLsbD 2 = true) (d : Desc) :
    decodeCtl c d = .reset := by
  have hc : ∀ c : BitVec 3, c.getLsbD 2 = true → resetRow.selects c = true := by decide
  rw [decodeCtl, if_pos (hc c h)]

@[simp] theorem bytesOfWord_length (n w : Nat) : (bytesOfWord n w).length = n := by
  induction n generalizing w with
  | zero => rfl
  | succ n ih => simp [bytesOfWord, ih]

/-- Byte `i` of a word is its bits `8i+7:8i` (00 R10). -/
theorem descByte_bytesOfWord {n i : Nat} (w : Nat) (h : i < n) :
    descByte (bytesOfWord n w) i = BitVec.ofNat 8 (w / 256 ^ i) := by
  induction n generalizing i w with
  | zero => omega
  | succ n ih =>
    cases i with
    | zero => simp [bytesOfWord, descByte]
    | succ i =>
      have := ih (i := i) (w / 256) (by omega)
      simp only [descByte, bytesOfWord, List.getD_cons_succ] at this ⊢
      rw [this, Nat.div_div_eq_div_mul, ← Nat.pow_succ']

@[simp] theorem zeroDesc_length (n : Nat) : (zeroDesc n).length = n := by simp [zeroDesc]

@[simp] theorem descPayload_length (d : Desc) (n : Nat) : (descPayload d n).length = n := by
  simp [descPayload]

/-- The only way a descriptor spells a packet command: whole, and with one of the five tags (30 R86, R91). -/
theorem decodePacket_ok {maxPayload : Nat} {d : Desc} {i : Instr}
    (h : decodePacket maxPayload d = .ok i) :
    d.length = descBytes maxPayload ∧
    ((descTag d = 0x00 ∧ i = .speedDir (descAddr d) (descSpeed d) (descDir d)) ∨
     (descTag d = 0x01 ∧ i = .idle) ∨
     (descTag d = 0x02 ∧ i = .dccReset) ∨
     (descTag d = 0x03 ∧ i = .bcastStop (descEmergency d)) ∨
     (descTag d = 0x04 ∧ i = .svcMode (descLen d) (descPayload d maxPayload))) := by
  unfold decodePacket at h
  split at h
  · rename_i hw
    refine ⟨by simpa [descWellFormed] using hw, ?_⟩
    split at h <;> rename_i ht
    · cases h; exact .inl ⟨BitVec.eq_of_toNat_eq ht, rfl⟩
    · cases h; exact .inr (.inl ⟨BitVec.eq_of_toNat_eq ht, rfl⟩)
    · cases h; exact .inr (.inr (.inl ⟨BitVec.eq_of_toNat_eq ht, rfl⟩))
    · cases h; exact .inr (.inr (.inr (.inl ⟨BitVec.eq_of_toNat_eq ht, rfl⟩)))
    · cases h; exact .inr (.inr (.inr (.inr ⟨BitVec.eq_of_toNat_eq ht, rfl⟩)))
    · cases h
  · cases h

namespace Machine

/-- What the builder can answer, once (40 R112 to R118): one case per tag, each with its frame as a payload and its
checksum. -/
theorem build_ok {maxPayload : Nat} {d : Desc} {F : Frame} (h : build maxPayload d = .ok F) :
    (descTag d = 0x00 ∧ 1 ≤ (descAddr d).toNat ∧ (descAddr d).toNat ≤ 127 ∧ (descSpeed d).toNat ≤ 28 ∧
      F = frameOf maxPayload
        (withChecksum [descAddr d, speedDataByte (descDir d) (speedCode (descSpeed d).toNat)]) .ops) ∨
    (descTag d = 0x01 ∧ F = frameOf maxPayload (withChecksum [0xFF, 0x00]) .ops) ∨
    (descTag d = 0x02 ∧ F = frameOf maxPayload (withChecksum [0x00, 0x00]) .ops) ∨
    (descTag d = 0x03 ∧ F = frameOf maxPayload (withChecksum [0x00, bcastDataByte (descEmergency d)]) .ops) ∨
    (descTag d = 0x04 ∧ 1 ≤ (descLen d).toNat ∧ (descLen d).toNat ≤ maxPayload ∧
      F = frameOf maxPayload (withChecksum ((descPayload d maxPayload).take (descLen d).toNat)) .svc) := by
  unfold build at h
  split at h <;> rename_i ht
  · refine .inl ⟨BitVec.eq_of_toNat_eq ht, ?_⟩
    unfold buildSpeedDir at h
    split at h
    · cases h
    · split at h
      · cases h
      · cases h
        exact ⟨by omega, by omega, by omega, rfl⟩
  · cases h
    exact .inr (.inl ⟨BitVec.eq_of_toNat_eq ht, rfl⟩)
  · cases h
    exact .inr (.inr (.inl ⟨BitVec.eq_of_toNat_eq ht, rfl⟩))
  · cases h
    exact .inr (.inr (.inr (.inl
      ⟨BitVec.eq_of_toNat_eq ht, by simp [withChecksum, xsum]⟩)))
  · refine .inr (.inr (.inr (.inr ⟨BitVec.eq_of_toNat_eq ht, ?_⟩)))
    unfold buildSvcMode at h
    split at h
    · cases h
    · cases h
      exact ⟨by omega, by omega, rfl⟩
  · cases h

end Machine

end Sys2Proof
end

