-- ==== Sys2Proof/Laws/State.lean ====
section
/-! SUPPORT. The field laws of the state's writes: one per field per write, true by rfl. -/

namespace Sys2Proof.Machine

variable (s : State)

@[simp] theorem State.setCur_cfg (F : Frame) : (s.setCur F).cfg = s.cfg := rfl
@[simp] theorem State.setCur_cur (F : Frame) : (s.setCur F).cur = F := rfl
@[simp] theorem State.setCur_phase (F : Frame) : (s.setCur F).phase = s.phase := rfl
@[simp] theorem State.setCur_half (F : Frame) : (s.setCur F).half = s.half := rfl
@[simp] theorem State.setCur_pend (F : Frame) : (s.setCur F).pend = s.pend := rfl
@[simp] theorem State.setCur_pin (F : Frame) : (s.setCur F).pin = s.pin := rfl
@[simp] theorem State.setCur_dly (F : Frame) : (s.setCur F).dly = s.dly := rfl
@[simp] theorem State.setCur_ost (F : Frame) : (s.setCur F).ost = s.ost := rfl
@[simp] theorem State.setCur_inputs (F : Frame) : (s.setCur F).inputs = s.inputs := rfl
@[simp] theorem State.setCur_draws (F : Frame) : (s.setCur F).draws = s.draws := rfl

@[simp] theorem State.setPhase_cfg (p : Phase) : (s.setPhase p).cfg = s.cfg := rfl
@[simp] theorem State.setPhase_cur (p : Phase) : (s.setPhase p).cur = s.cur := rfl
@[simp] theorem State.setPhase_phase (p : Phase) : (s.setPhase p).phase = p := rfl
@[simp] theorem State.setPhase_half (p : Phase) : (s.setPhase p).half = s.half := rfl
@[simp] theorem State.setPhase_pend (p : Phase) : (s.setPhase p).pend = s.pend := rfl
@[simp] theorem State.setPhase_pin (p : Phase) : (s.setPhase p).pin = s.pin := rfl
@[simp] theorem State.setPhase_dly (p : Phase) : (s.setPhase p).dly = s.dly := rfl
@[simp] theorem State.setPhase_ost (p : Phase) : (s.setPhase p).ost = s.ost := rfl
@[simp] theorem State.setPhase_inputs (p : Phase) : (s.setPhase p).inputs = s.inputs := rfl
@[simp] theorem State.setPhase_draws (p : Phase) : (s.setPhase p).draws = s.draws := rfl

@[simp] theorem State.setHalf_cfg (h : Half) : (s.setHalf h).cfg = s.cfg := rfl
@[simp] theorem State.setHalf_cur (h : Half) : (s.setHalf h).cur = s.cur := rfl
@[simp] theorem State.setHalf_phase (h : Half) : (s.setHalf h).phase = s.phase := rfl
@[simp] theorem State.setHalf_half (h : Half) : (s.setHalf h).half = h := rfl
@[simp] theorem State.setHalf_pend (h : Half) : (s.setHalf h).pend = s.pend := rfl
@[simp] theorem State.setHalf_pin (h : Half) : (s.setHalf h).pin = s.pin := rfl
@[simp] theorem State.setHalf_dly (h : Half) : (s.setHalf h).dly = s.dly := rfl
@[simp] theorem State.setHalf_ost (h : Half) : (s.setHalf h).ost = s.ost := rfl
@[simp] theorem State.setHalf_inputs (h : Half) : (s.setHalf h).inputs = s.inputs := rfl
@[simp] theorem State.setHalf_draws (h : Half) : (s.setHalf h).draws = s.draws := rfl

@[simp] theorem State.setPend_cfg (l : Slot) : (s.setPend l).cfg = s.cfg := rfl
@[simp] theorem State.setPend_cur (l : Slot) : (s.setPend l).cur = s.cur := rfl
@[simp] theorem State.setPend_phase (l : Slot) : (s.setPend l).phase = s.phase := rfl
@[simp] theorem State.setPend_half (l : Slot) : (s.setPend l).half = s.half := rfl
@[simp] theorem State.setPend_pend (l : Slot) : (s.setPend l).pend = l := rfl
@[simp] theorem State.setPend_pin (l : Slot) : (s.setPend l).pin = s.pin := rfl
@[simp] theorem State.setPend_dly (l : Slot) : (s.setPend l).dly = s.dly := rfl
@[simp] theorem State.setPend_ost (l : Slot) : (s.setPend l).ost = s.ost := rfl
@[simp] theorem State.setPend_inputs (l : Slot) : (s.setPend l).inputs = s.inputs := rfl
@[simp] theorem State.setPend_draws (l : Slot) : (s.setPend l).draws = s.draws := rfl

@[simp] theorem State.setPin_cfg (b : Bool) : (s.setPin b).cfg = s.cfg := rfl
@[simp] theorem State.setPin_cur (b : Bool) : (s.setPin b).cur = s.cur := rfl
@[simp] theorem State.setPin_phase (b : Bool) : (s.setPin b).phase = s.phase := rfl
@[simp] theorem State.setPin_half (b : Bool) : (s.setPin b).half = s.half := rfl
@[simp] theorem State.setPin_pend (b : Bool) : (s.setPin b).pend = s.pend := rfl
@[simp] theorem State.setPin_pin (b : Bool) : (s.setPin b).pin = b := rfl
@[simp] theorem State.setPin_dly (b : Bool) : (s.setPin b).dly = s.dly := rfl
@[simp] theorem State.setPin_ost (b : Bool) : (s.setPin b).ost = s.ost := rfl
@[simp] theorem State.setPin_inputs (b : Bool) : (s.setPin b).inputs = s.inputs := rfl
@[simp] theorem State.setPin_draws (b : Bool) : (s.setPin b).draws = s.draws := rfl

@[simp] theorem State.setDly_cfg (d : Micros) : (s.setDly d).cfg = s.cfg := rfl
@[simp] theorem State.setDly_cur (d : Micros) : (s.setDly d).cur = s.cur := rfl
@[simp] theorem State.setDly_phase (d : Micros) : (s.setDly d).phase = s.phase := rfl
@[simp] theorem State.setDly_half (d : Micros) : (s.setDly d).half = s.half := rfl
@[simp] theorem State.setDly_pend (d : Micros) : (s.setDly d).pend = s.pend := rfl
@[simp] theorem State.setDly_pin (d : Micros) : (s.setDly d).pin = s.pin := rfl
@[simp] theorem State.setDly_dly (d : Micros) : (s.setDly d).dly = d := rfl
@[simp] theorem State.setDly_ost (d : Micros) : (s.setDly d).ost = s.ost := rfl
@[simp] theorem State.setDly_inputs (d : Micros) : (s.setDly d).inputs = s.inputs := rfl
@[simp] theorem State.setDly_draws (d : Micros) : (s.setDly d).draws = s.draws := rfl

@[simp] theorem State.setOst_cfg (o : OfferStatus) : (s.setOst o).cfg = s.cfg := rfl
@[simp] theorem State.setOst_cur (o : OfferStatus) : (s.setOst o).cur = s.cur := rfl
@[simp] theorem State.setOst_phase (o : OfferStatus) : (s.setOst o).phase = s.phase := rfl
@[simp] theorem State.setOst_half (o : OfferStatus) : (s.setOst o).half = s.half := rfl
@[simp] theorem State.setOst_pend (o : OfferStatus) : (s.setOst o).pend = s.pend := rfl
@[simp] theorem State.setOst_pin (o : OfferStatus) : (s.setOst o).pin = s.pin := rfl
@[simp] theorem State.setOst_dly (o : OfferStatus) : (s.setOst o).dly = s.dly := rfl
@[simp] theorem State.setOst_ost (o : OfferStatus) : (s.setOst o).ost = o := rfl
@[simp] theorem State.setOst_inputs (o : OfferStatus) : (s.setOst o).inputs = s.inputs := rfl
@[simp] theorem State.setOst_draws (o : OfferStatus) : (s.setOst o).draws = s.draws := rfl

@[simp] theorem State.setInputs_cfg (l : List PortSample) : (s.setInputs l).cfg = s.cfg := rfl
@[simp] theorem State.setInputs_cur (l : List PortSample) : (s.setInputs l).cur = s.cur := rfl
@[simp] theorem State.setInputs_phase (l : List PortSample) : (s.setInputs l).phase = s.phase := rfl
@[simp] theorem State.setInputs_half (l : List PortSample) : (s.setInputs l).half = s.half := rfl
@[simp] theorem State.setInputs_pend (l : List PortSample) : (s.setInputs l).pend = s.pend := rfl
@[simp] theorem State.setInputs_pin (l : List PortSample) : (s.setInputs l).pin = s.pin := rfl
@[simp] theorem State.setInputs_dly (l : List PortSample) : (s.setInputs l).dly = s.dly := rfl
@[simp] theorem State.setInputs_ost (l : List PortSample) : (s.setInputs l).ost = s.ost := rfl
@[simp] theorem State.setInputs_inputs (l : List PortSample) : (s.setInputs l).inputs = l := rfl
@[simp] theorem State.setInputs_draws (l : List PortSample) : (s.setInputs l).draws = s.draws := rfl

@[simp] theorem State.setDraws_cfg (n : Nat) : (s.setDraws n).cfg = s.cfg := rfl
@[simp] theorem State.setDraws_cur (n : Nat) : (s.setDraws n).cur = s.cur := rfl
@[simp] theorem State.setDraws_phase (n : Nat) : (s.setDraws n).phase = s.phase := rfl
@[simp] theorem State.setDraws_half (n : Nat) : (s.setDraws n).half = s.half := rfl
@[simp] theorem State.setDraws_pend (n : Nat) : (s.setDraws n).pend = s.pend := rfl
@[simp] theorem State.setDraws_pin (n : Nat) : (s.setDraws n).pin = s.pin := rfl
@[simp] theorem State.setDraws_dly (n : Nat) : (s.setDraws n).dly = s.dly := rfl
@[simp] theorem State.setDraws_ost (n : Nat) : (s.setDraws n).ost = s.ost := rfl
@[simp] theorem State.setDraws_inputs (n : Nat) : (s.setDraws n).inputs = s.inputs := rfl
@[simp] theorem State.setDraws_draws (n : Nat) : (s.setDraws n).draws = n := rfl

end Sys2Proof.Machine
end

