-- ==== Sys2Proof/Laws/Ops.lean ====
section
/-! SUPPORT. One law per shared operation, saying once what it does to each element, and the inversion of ADVANCE.
Later proofs cite these and unfold no operation. -/

namespace Sys2Proof.Machine

/-! ## Half-bit and cursor -/

section Emit
variable (b : Bool) (s : State)

@[simp] theorem emitHalfBit_cfg : (emitHalfBit b s).cfg = s.cfg := rfl
@[simp] theorem emitHalfBit_cur : (emitHalfBit b s).cur = s.cur := rfl
@[simp] theorem emitHalfBit_phase : (emitHalfBit b s).phase = s.phase := rfl
@[simp] theorem emitHalfBit_half : (emitHalfBit b s).half = s.half := rfl
@[simp] theorem emitHalfBit_pend : (emitHalfBit b s).pend = s.pend := rfl
@[simp] theorem emitHalfBit_pin : (emitHalfBit b s).pin = level s.half := rfl
@[simp] theorem emitHalfBit_dly : (emitHalfBit b s).dly = dur s.cfg b := rfl
@[simp] theorem emitHalfBit_ost : (emitHalfBit b s).ost = s.ost := rfl
@[simp] theorem emitHalfBit_inputs : (emitHalfBit b s).inputs = s.inputs := rfl
@[simp] theorem emitHalfBit_draws : (emitHalfBit b s).draws = s.draws := rfl

end Emit

section Handoff
variable (s : State)

/-- What the handoff does (42 R161): the frame after it is the next one, the slot is empty, and its register keeps
what it holds (42 R160). -/
theorem handoff_eq : handoff s = { s with
    cur := nextFrame s
    pend := s.pend.clear
    phase := .pre (preLen s.cfg (nextFrame s).cls) } := by
  obtain ⟨cfg, cur, phase, half, ⟨valid, frame⟩, pin, dly, ost, inputs, draws⟩ := s
  cases valid <;> rfl

@[simp] theorem handoff_cfg : (handoff s).cfg = s.cfg := by rw [handoff_eq]
@[simp] theorem handoff_cur : (handoff s).cur = nextFrame s := by rw [handoff_eq]
@[simp] theorem handoff_phase : (handoff s).phase = .pre (preLen s.cfg (nextFrame s).cls) := by
  rw [handoff_eq]
@[simp] theorem handoff_half : (handoff s).half = s.half := by rw [handoff_eq]
@[simp] theorem handoff_pend : (handoff s).pend = s.pend.clear := by rw [handoff_eq]
@[simp] theorem handoff_pin : (handoff s).pin = s.pin := by rw [handoff_eq]
@[simp] theorem handoff_dly : (handoff s).dly = s.dly := by rw [handoff_eq]
@[simp] theorem handoff_ost : (handoff s).ost = s.ost := by rw [handoff_eq]
@[simp] theorem handoff_inputs : (handoff s).inputs = s.inputs := by rw [handoff_eq]
@[simp] theorem handoff_draws : (handoff s).draws = s.draws := by rw [handoff_eq]

@[simp] theorem Slot.clear_valid (slot : Slot) : slot.clear.valid = false := rfl
@[simp] theorem Slot.clear_frame (slot : Slot) : slot.clear.frame = slot.frame := rfl

end Handoff

/-- What the cursor step does: the second half is due, or the next phase, or the handoff (42 R160). -/
theorem stepCursor_cases (s : State) :
    (s.half = .h1 ∧ stepCursor s = s.setHalf .h2) ∨
    (s.half = .h2 ∧ ∃ p, nextPhase s.cur s.phase = some p ∧
      stepCursor s = (s.setHalf .h1).setPhase p) ∨
    (s.half = .h2 ∧ nextPhase s.cur s.phase = none ∧ stepCursor s = handoff (s.setHalf .h1)) := by
  unfold stepCursor
  cases s.half with
  | h1 => exact .inl ⟨rfl, rfl⟩
  | h2 =>
    cases nextPhase s.cur s.phase with
    | some p => exact .inr (.inl ⟨rfl, p, rfl, rfl⟩)
    | none => exact .inr (.inr ⟨rfl, rfl, rfl⟩)

section StepCursor
variable (s : State)

@[simp] theorem stepCursor_cfg : (stepCursor s).cfg = s.cfg := by
  obtain ⟨-, h⟩ | ⟨-, p, -, h⟩ | ⟨-, -, h⟩ := stepCursor_cases s <;> simp [h]
@[simp] theorem stepCursor_pin : (stepCursor s).pin = s.pin := by
  obtain ⟨-, h⟩ | ⟨-, p, -, h⟩ | ⟨-, -, h⟩ := stepCursor_cases s <;> simp [h]
@[simp] theorem stepCursor_dly : (stepCursor s).dly = s.dly := by
  obtain ⟨-, h⟩ | ⟨-, p, -, h⟩ | ⟨-, -, h⟩ := stepCursor_cases s <;> simp [h]
@[simp] theorem stepCursor_ost : (stepCursor s).ost = s.ost := by
  obtain ⟨-, h⟩ | ⟨-, p, -, h⟩ | ⟨-, -, h⟩ := stepCursor_cases s <;> simp [h]
@[simp] theorem stepCursor_inputs : (stepCursor s).inputs = s.inputs := by
  obtain ⟨-, h⟩ | ⟨-, p, -, h⟩ | ⟨-, -, h⟩ := stepCursor_cases s <;> simp [h]
@[simp] theorem stepCursor_draws : (stepCursor s).draws = s.draws := by
  obtain ⟨-, h⟩ | ⟨-, p, -, h⟩ | ⟨-, -, h⟩ := stepCursor_cases s <;> simp [h]
/-- ADVANCE never writes the frame register of the slot (42 R160). -/
@[simp] theorem stepCursor_pend_frame : (stepCursor s).pend.frame = s.pend.frame := by
  obtain ⟨-, h⟩ | ⟨-, p, -, h⟩ | ⟨-, -, h⟩ := stepCursor_cases s <;> simp [h]

end StepCursor

/-- Only the end bit leads to the boundary (41 R145). -/
theorem nextPhase_eq_none_iff (F : Frame) (ph : Phase) : nextPhase F ph = none ↔ ph = .endBit := by
  cases ph with
  | pre k => simp only [nextPhase]; split <;> simp
  | data i b => simp only [nextPhase]; split <;> [simp; (split <;> simp)]
  | start => simp [nextPhase]
  | sep i => simp [nextPhase]
  | endBit => simp [nextPhase]

/-- The byte under the cursor exists wherever the phase is in range (10 R31), so the due bit is defined. -/
theorem bitAt_of_phaseOk {p : Params} {F : Frame} {ph : Phase} (hlen : 1 ≤ F.len)
    (hreg : F.len ≤ F.bytes.length) (h : phaseOk p F ph = true) : ∃ b, bitAt F ph = some b := by
  cases ph with
  | data i b =>
    have hi : i < F.sent.length := by
      simp only [phaseOk, Bool.and_eq_true, decide_eq_true_eq] at h
      rw [Frame.sent_length hreg]
      omega
    exact ⟨F.sent[i].getLsbD b, by simp [bitAt, frameByte_eq, List.getElem?_eq_getElem hi]⟩
  | pre k => exact ⟨_, rfl⟩
  | start => exact ⟨_, rfl⟩
  | sep i => exact ⟨_, rfl⟩
  | endBit => exact ⟨_, rfl⟩

/-- The registers' size and the five conditions of 10 R33, apart. -/
theorem inv_iff (s : State) : inv s = true ↔
    (s.cur.bytes.length = s.cfg.frameMax ∧ s.pend.frame.bytes.length = s.cfg.frameMax) ∧
    frameOk s.cfg s.cur = true ∧ phaseOk s.cfg s.cur s.phase = true ∧
    (s.pend.valid = true → frameOk s.cfg s.pend.frame = true) ∧ s.pin = decide (s.half = .h2) ∧
    (s.dly = 0 ∨ s.dly = s.cfg.tOneUs ∨ s.dly = s.cfg.tZeroUs) := by
  simp [inv, registerOk_iff, and_assoc, or_assoc, Bool.or_eq_true, imp_iff_not_or]

/-- What holds of the current frame inside `Inv`: at least two bytes, all in the array. -/
theorem cur_of_inv {s : State} (h : inv s = true) : 2 ≤ s.cur.len ∧ s.cur.len ≤ s.cur.bytes.length := by
  obtain ⟨⟨hr, -⟩, hc, -⟩ := (inv_iff s).1 h
  have := (frameOk_iff _ _).1 hc
  omega

/-- ADVANCE answers a next state exactly inside `Inv` (42 R160; 60 R192). -/
theorem advanceHalfBit_of_inv {s : State} (h : inv s = true) :
    ∃ b, bitAt s.cur s.phase = some b ∧ advanceHalfBit s = .next (stepCursor (emitHalfBit b s)) := by
  obtain ⟨-, -, hp, -⟩ := (inv_iff s).1 h
  obtain ⟨hl, hr⟩ := cur_of_inv h
  obtain ⟨b, hb⟩ := bitAt_of_phaseOk (by omega) hr hp
  exact ⟨b, hb, by simp [advanceHalfBit, h, hb]⟩

theorem advanceHalfBit_of_not_inv {s : State} (h : inv s = false) :
    advanceHalfBit s = .fault .badState := by simp [advanceHalfBit, h]

/-- If ADVANCE answers a next state, it is the one of its half-bit. -/
theorem advanceHalfBit_next {s t : State} (h : advanceHalfBit s = .next t) :
    inv s = true ∧ ∃ b, bitAt s.cur s.phase = some b ∧ t = stepCursor (emitHalfBit b s) := by
  cases hi : inv s with
  | false => simp [advanceHalfBit_of_not_inv hi] at h
  | true =>
    obtain ⟨b, hb, he⟩ := advanceHalfBit_of_inv hi
    rw [he] at h
    cases h
    exact ⟨rfl, b, hb, rfl⟩

/-! ## Mailbox and reset -/

section Offer
variable (r : Built) (d : Desc) (s : State)

@[simp] theorem offerBuilt_cfg : (offerBuilt r s).cfg = s.cfg := rfl
@[simp] theorem offerBuilt_cur : (offerBuilt r s).cur = s.cur := rfl
@[simp] theorem offerBuilt_phase : (offerBuilt r s).phase = s.phase := rfl
@[simp] theorem offerBuilt_half : (offerBuilt r s).half = s.half := rfl
@[simp] theorem offerBuilt_pend :
    (offerBuilt r s).pend = offerSlot s.cfg.mboxPolicy s.pend r := rfl
@[simp] theorem offerBuilt_pin : (offerBuilt r s).pin = s.pin := rfl
@[simp] theorem offerBuilt_dly : (offerBuilt r s).dly = s.dly := rfl
@[simp] theorem offerBuilt_ost :
    (offerBuilt r s).ost = offerStatus s.cfg.mboxPolicy s.pend r := rfl
@[simp] theorem offerBuilt_inputs : (offerBuilt r s).inputs = s.inputs := rfl
@[simp] theorem offerBuilt_draws : (offerBuilt r s).draws = s.draws := rfl

/-- The OFFER of a descriptor is the OFFER of what it builds. -/
theorem offerDesc_eq : offerDesc d s = offerBuilt (build s.cfg.maxPayload d) s := rfl

/-- The slot after an OFFER is what it was, or full with the frame that was built (42 R162). -/
theorem offerSlot_cases (policy : MboxPolicy) (slot : Slot) :
    offerSlot policy slot r = slot ∨ ∃ F, r = .ok F ∧ offerSlot policy slot r = ⟨true, F⟩ := by
  obtain ⟨valid, frame⟩ := slot
  cases r with
  | outOfRange _ => exact .inl rfl
  | ok F =>
    cases valid with
    | false => exact .inr ⟨F, rfl, rfl⟩
    | true =>
      cases policy with
      | overwrite => exact .inr ⟨F, rfl, rfl⟩
      | reject => exact .inl rfl

end Offer

/-- The OFFER of a frame leaves what 42 R162 says, by the slot and the policy. -/
theorem leavesOffer_offerBuilt (F : Frame) (s : State) : LeavesOffer s (offerBuilt (.ok F) s) F := by
  refine ⟨fun h => ?_, fun h hp => ?_, fun h hp => ?_⟩
  all_goals simp only [offerBuilt, offerSlot, offerStatus, State.setPend, State.setOst, *]

/-- The OFFER of a descriptor that does not build changes the status only (42 R162; 60 R191). -/
theorem offerBuilt_outOfRange (r : OutOfRange) (s : State) :
    offerBuilt (.outOfRange r) s = { s with ost := .outOfRange } := rfl

/-- Everything RESET writes (70 R220). -/
theorem resetBlock_eq (F : Frame) (s : State) : resetBlock F s =
    { cfg := s.cfg, cur := F, phase := .pre (preLen s.cfg F.cls), half := .h1,
      pend := ⟨false, unspecifiedFrame s.cfg.frameMax s.draws⟩,
      pin := false, dly := 0, ost := .none, inputs := s.inputs, draws := s.draws + 1 } := rfl

/-! ## The clock edge -/

section Edge
variable (s : State)

@[simp] theorem consumeSample_cfg : (consumeSample s).cfg = s.cfg := rfl
@[simp] theorem consumeSample_cur : (consumeSample s).cur = s.cur := rfl
@[simp] theorem consumeSample_phase : (consumeSample s).phase = s.phase := rfl
@[simp] theorem consumeSample_half : (consumeSample s).half = s.half := rfl
@[simp] theorem consumeSample_pend : (consumeSample s).pend = s.pend := rfl
@[simp] theorem consumeSample_pin : (consumeSample s).pin = s.pin := rfl
@[simp] theorem consumeSample_dly : (consumeSample s).dly = s.dly := rfl
@[simp] theorem consumeSample_ost : (consumeSample s).ost = s.ost := rfl
@[simp] theorem consumeSample_inputs : (consumeSample s).inputs = s.inputs.tail := rfl
@[simp] theorem consumeSample_draws : (consumeSample s).draws = s.draws := rfl

/-- The invariant is about the block, not about what the environment drives next. -/
@[simp] theorem inv_setInputs (l : List PortSample) : inv (s.setInputs l) = inv s := rfl

@[simp] theorem inv_consumeSample : inv (consumeSample s) = inv s := rfl

/-! The block does not look at what the environment drives later: the operations commute with it. -/

@[simp] theorem emitHalfBit_setInputs (b : Bool) (l : List PortSample) :
    emitHalfBit b (s.setInputs l) = (emitHalfBit b s).setInputs l := rfl

@[simp] theorem handoff_setInputs (l : List PortSample) :
    handoff (s.setInputs l) = (handoff s).setInputs l := by
  simp [handoff_eq, State.setInputs, nextFrame]

@[simp] theorem stepCursor_setInputs (l : List PortSample) :
    stepCursor (s.setInputs l) = (stepCursor s).setInputs l := by
  obtain ⟨cfg, cur, phase, half, pend, pin, dly, ost, inputs, draws⟩ := s
  cases half with
  | h1 => rfl
  | h2 =>
    simp only [stepCursor, State.setInputs_half, State.setInputs_cur, State.setInputs_phase]
    cases nextPhase cur phase with
    | some p => rfl
    | none => exact handoff_setInputs (State.setHalf ⟨cfg, cur, phase, .h2, pend, pin, dly, ost, inputs, draws⟩ .h1) l

@[simp] theorem offerBuilt_setInputs (r : Built) (l : List PortSample) :
    offerBuilt r (s.setInputs l) = (offerBuilt r s).setInputs l := rfl

@[simp] theorem resetBlock_setInputs (F : Frame) (l : List PortSample) :
    resetBlock F (s.setInputs l) = (resetBlock F s).setInputs l := rfl

theorem step_of_legal {s : State} (h : legal s.cfg = true) :
    step s = exec (fetch s) (consumeSample s) := by simp [step, h]

end Edge

/-- One more edge of a run. -/
theorem core_run_next {M : Host.Core} {n : Nat} {s t : M.State} (h : M.step s = .next t) :
    Host.Core.run M (n + 1) s = Host.Core.run M n t := by simp [Host.Core.run, h]

/-- What an operation that answers a next state can be (30 R93), over the four shared operations. -/
theorem exec_port_next {i : Instr} {s t : State} (hi : i.isPacket = false) (h : exec i s = .next t) :
    (i = .nop ∧ t = s) ∨
    (i = .advance none ∧ advanceHalfBit s = .next t) ∨
    (∃ d u, i = .advance (some d) ∧ advanceHalfBit s = .next u ∧ t = offerDesc d u) ∨
    (∃ d, i = .offer d ∧ t = offerDesc d s) ∨
    (∃ F, i = .reset ∧ build s.cfg.maxPayload s.cfg.initDesc = .ok F ∧ t = resetBlock F s) := by
  cases i with
  | nop => cases h; exact .inl ⟨rfl, rfl⟩
  | advance off =>
    simp only [exec, execAdvance] at h
    cases ha : advanceHalfBit s with
    | next u =>
      rw [ha] at h
      cases off with
      | none => cases h; exact .inr (.inl ⟨rfl, rfl⟩)
      | some d => cases h; exact .inr (.inr (.inl ⟨d, u, rfl, rfl, rfl⟩))
    | fault f => rw [ha] at h; cases h
    | refused r => rw [ha] at h; cases h
  | offer d => cases h; exact .inr (.inr (.inr (.inl ⟨d, rfl, rfl⟩)))
  | reset =>
    simp only [exec, execReset] at h
    cases hb : build s.cfg.maxPayload s.cfg.initDesc with
    | ok F => rw [hb] at h; cases h; exact .inr (.inr (.inr (.inr ⟨F, rfl, rfl, rfl⟩)))
    | outOfRange r => rw [hb] at h; cases h
  | speedDir _ _ _ => cases hi
  | idle => cases hi
  | dccReset => cases hi
  | bcastStop _ => cases hi
  | svcMode _ _ => cases hi

/-- A packet command is the OFFER of what its builder answers. -/
theorem exec_packet {i : Instr} (hi : i.isPacket = true) (s : State) :
    ∃ r, exec i s = .next (offerBuilt r s) := by
  cases i with
  | nop => cases hi
  | advance _ => cases hi
  | offer _ => cases hi
  | reset => cases hi
  | speedDir a v dir => exact ⟨buildSpeedDir s.cfg.maxPayload a v dir, rfl⟩
  | idle => exact ⟨buildIdle s.cfg.maxPayload, rfl⟩
  | dccReset => exact ⟨buildDccReset s.cfg.maxPayload, rfl⟩
  | bcastStop e => exact ⟨buildBcastStop s.cfg.maxPayload e, rfl⟩
  | svcMode len payload => exact ⟨buildSvcMode s.cfg.maxPayload len payload, rfl⟩

/-- A port sample never selects a packet command by itself (30 R92, R96). -/
theorem decodeCtl_isPacket (c : BitVec 3) (d : Desc) : (decodeCtl c d).isPacket = false := by
  unfold decodeCtl
  split
  · rfl
  · split
    · split <;> rfl
    · split <;> rfl

end Sys2Proof.Machine
end

