-- ==== Sys2Proof/Laws/PerInstr.lean ====
section
/-! SUPPORT. A fact about every instruction as the words of its encoding, one lemma per constructor: the descriptor
wires of a well-formed instruction are exactly `DESC_W` bits (spec 30_encoding.md R86). -/

namespace Sys2Proof.Laws.EncodeWidth

/-- The sample that spells a well-formed instruction has a whole descriptor. -/
def Statement (i : Instr) : Prop :=
  ∀ maxPayload, 2 ≤ maxPayload → i.wellFormed maxPayload = true →
    (encode maxPayload i).desc.length = descBytes maxPayload

/-- A padded descriptor has the port's width. -/
theorem padDesc_length {maxPayload : Nat} {used : Desc} (h : used.length ≤ descBytes maxPayload) :
    (padDesc maxPayload used).length = descBytes maxPayload := by
  simp [padDesc, zeroDesc]
  omega

theorem nop : Statement .nop := fun mp _ _ => by simp [encode, encodeDesc, portSampleOf, zeroDesc]

theorem advance (offered : Option Desc) : Statement (.advance offered) := fun mp _ h => by
  cases offered with
  | none => simp [encode, encodeDesc, portSampleOf, zeroDesc]
  | some d => simpa [encode, encodeDesc, portSampleOf, Instr.wellFormed, descWellFormed] using h

theorem offer (desc : Desc) : Statement (.offer desc) := fun mp _ h => by
  simpa [encode, encodeDesc, portSampleOf, Instr.wellFormed, descWellFormed] using h

theorem reset : Statement .reset := fun mp _ _ => by
  simp [encode, encodeDesc, portSampleOf, zeroDesc]

theorem speedDir (addr speed : Byte) (dir : Bool) : Statement (.speedDir addr speed dir) :=
  fun mp h2 _ => padDesc_length (by simp [descBytes]; omega)

theorem idle : Statement .idle := fun mp h2 _ => padDesc_length (by simp [descBytes]; omega)

theorem dccReset : Statement .dccReset := fun mp h2 _ => padDesc_length (by simp [descBytes]; omega)

theorem bcastStop (emergency : Bool) : Statement (.bcastStop emergency) :=
  fun mp h2 _ => padDesc_length (by simp [descBytes])

theorem svcMode (len : Byte) (payload : List Byte) : Statement (.svcMode len payload) :=
  fun mp _ h => by
    simp [encode, encodeDesc, portSampleOf, Instr.wellFormed, descBytes] at h ⊢
    omega

end Sys2Proof.Laws.EncodeWidth
end

