-- ==== Sys2Proof/Tests/Slice0.lean ====
section
/-! SUPPORT. The model's own tests: refused terms, words written out from the spec, single steps from
95_test_vectors.md, and one witness for the hypotheses of each statement. -/

namespace Sys2Proof.Tests

open Sys2Proof Sys2Proof.Machine

/-! ## Small states -/

/-- The frame `03 78 7B` (95 W7). The last bytes of these registers are no part of the frame. -/
def speedFrame : Frame := ⟨3, [0x03, 0x78, 0x7B, 0xAA, 0x55, 0xAA], .ops⟩
/-- The frame `7C 00 05 79` (95 section 2.1). -/
def svcFrame : Frame := ⟨4, [0x7C, 0x00, 0x05, 0x79, 0xAA, 0x55], .svc⟩
/-- The frame `00 51 51` (95 section 2.1). -/
def estopFrame : Frame := ⟨3, [0x00, 0x51, 0x51, 0xAA, 0xAA, 0xAA], .ops⟩
/-- The IDLE descriptor (95 section 2.1). -/
def idleWord : Desc := bytesOfWord 7 0x00000000000001

/-- An empty slot. -/
def empty : Slot := ⟨false, ⟨9, [0, 1, 2, 3, 4, 5], .svc⟩⟩
/-- A slot that holds a frame. -/
def full (F : Frame) : Slot := ⟨true, F⟩

/-- A state of the defaults at a cursor, sending `03 78 7B`. -/
def at' (ph : Phase) (h : Half) (slot : Slot) : State :=
  { State.reset with
    cur := speedFrame, phase := ph, half := h, pend := slot, pin := decide (h = .h2), dly := 58 }

/-- `at'` under the policy REJECT. -/
def rejecting (slot : Slot) : State :=
  { at' .start .h1 slot with cfg := { Params.default with mboxPolicy := .reject } }

/-- A configuration far from the defaults, at ends of the ranges of 00 R7. -/
def farParams : Params where
  tOneUs := 65535
  tZeroUs := 1
  preOps := 255
  preSvc := 255
  maxPayload := 2
  mboxPolicy := .reject
  initDesc := [0x00, 127, 28, 0x01]

/-- Whether an outcome is a next state with a property. -/
def nextWith (o : Host.Outcome State Fault Refusal) (p : State → Bool) : Bool :=
  match o with
  | .next t => p t
  | .fault _ => false
  | .refused _ => false

/-- Whether an outcome is the fault `BAD_STATE`. -/
def isBadState (o : Host.Outcome State Fault Refusal) : Bool :=
  match o with
  | .next _ => false
  | .fault .badState => true
  | .refused _ => false

/-- Whether a register holds a frame of these bytes. -/
def holds (F : Frame) (sent : List Byte) (c : FrameClass) : Bool :=
  F.len == sent.length && F.sent == sent && F.cls == c

/-- Whether the slot holds a packet of these bytes. -/
def slotHolds (s : State) (sent : List Byte) (c : FrameClass) : Bool := s.pend.valid && holds s.pend.frame sent c

/-- Whether the builder answers a frame of these bytes. -/
def built (r : Built) (sent : List Byte) (c : FrameClass) : Bool :=
  match r with
  | .ok F => holds F sent c
  | .outOfRange _ => false

/-! ## Ill-formed terms are refused (30 R86, R90) -/

theorem test_wf_refuses_short_offer : (Instr.offer [0x01]).wellFormed 5 = false := by decide
theorem test_wf_refuses_short_advance : (Instr.advance (some [0x01])).wellFormed 5 = false := by decide
theorem test_wf_refuses_short_payload : (Instr.svcMode 1 [0x00]).wellFormed 5 = false := by decide
theorem test_wf_accepts_whole_offer : (Instr.offer idleWord).wellFormed 5 = true := by decide
theorem test_decode_names_its_refusals :
    decodePacket 5 [0x01] = .error (.descriptorWidth 1) ∧
    decodePacket 5 (bytesOfWord 7 0xFF) = .error (.reservedTag 0xFF) := by decide
theorem test_table_word_refuses_absent_wires :
    decodeTableWord 8 0b1000 = none ∧ decodeTableWord 56 0x05 = none := by decide

/-! ## Every constructor's decoding, by words written bit by bit from 30 R87 to R93 -/

theorem test_decode_nop : decodeCtl 0b000 idleWord = .nop := by decide
theorem test_decode_advance : decodeCtl 0b010 idleWord = .advance none := by decide
theorem test_decode_advance_offer : decodeCtl 0b011 idleWord = .advance (some idleWord) := by decide
theorem test_decode_offer : decodeCtl 0b001 idleWord = .offer idleWord := by decide
theorem test_decode_reset : decodeCtl 0b100 idleWord = .reset ∧ decodeCtl 0b111 idleWord = .reset := by
  decide
theorem test_decode_speedDir :  -- SPEED 3, FWD, 14
    decodePacket 5 (bytesOfWord 7 0b0000000000000000000000000000000_1_00001110_00000011_00000000) =
      .ok (.speedDir 3 14 true) := by decide
theorem test_decode_idle :  -- ignored bits set
    decodePacket 5 (bytesOfWord 7 0b111111111111111111111111111111111111111111111111_00000001) =
      .ok .idle := by decide
theorem test_decode_dccReset :
    decodePacket 5 (bytesOfWord 7 0b000000000000000000000000000000000000000000000000_00000010) =
      .ok .dccReset := by decide
theorem test_decode_bcastStop :  -- BSTOP ESTOP
    decodePacket 5 (bytesOfWord 7 0b00000000000000000000000000000000000000000000000_1_00000011) =
      .ok (.bcastStop true) := by decide
theorem test_decode_svcMode :  -- SVC [0x11, 0x22, 0x33, 0x44, 0x55]
    decodePacket 5 (bytesOfWord 7 0b01010101_01000100_00110011_00100010_00010001_00000101_00000100) =
      .ok (.svcMode 5 [0x11, 0x22, 0x33, 0x44, 0x55]) := by decide

/-! ## Single steps (95_test_vectors.md) -/

/-- E14. -/
theorem test_nop_E14 : nextWith (exec .nop (at' .endBit .h2 empty)) (· == at' .endBit .h2 empty) = true := by
  decide
/-- E7: a handoff installs a service-mode frame. -/
theorem test_advance_E7 : nextWith (exec (.advance none) (at' .endBit .h2 (full svcFrame))) (fun t =>
    decide (outputs t = ⟨false, 58, false, 0b000⟩ ∧ t.cur = svcFrame ∧ t.pend.frame = svcFrame ∧ t.phase = .pre 14 ∧ t.half = .h1)) = true := by
  decide
/-- E16: a cursor out of range. -/
theorem test_advance_E16 : isBadState (exec (.advance none) (at' (.data 3 0) .h1 empty)) = true := by decide
/-- E8: the handoff installs `G`, then the slot takes Idle. -/
theorem test_offer_E8 :
    nextWith (exec (.advance (some idleWord)) (at' .endBit .h2 (full svcFrame))) (fun t =>
      decide (t.cur = svcFrame ∧ slotHolds t [0xFF, 0x00, 0xFF] .ops = true ∧ t.ost = .accepted)) = true := by decide
/-- E12: the slot is full under REJECT. -/
theorem test_offer_E12 : nextWith (exec (.offer idleWord) (rejecting (full estopFrame))) (fun t =>
    decide (t.pend = full estopFrame ∧ t.ost.code = 0b011)) = true := by decide
/-- E15: RESET in mid-frame with `adv` and `off` raised. -/
theorem test_reset_E15 :
    nextWith (step ((at' (.data 1 3) .h2 (full svcFrame)).setInputs [⟨true, true, true, idleWord⟩]))
      (fun t => holds t.cur [0xFF, 0x00, 0xFF] .ops &&
        decide (t.phase = .pre 10 ∧ t.half = .h1 ∧ outputs t = ⟨false, 0, false, 0b000⟩)) = true := by decide
/-- Section 2.1: `SPEED 127, REV, 28` gives `7F 5F 20`. -/
theorem test_speedDir_corner : nextWith (exec (.speedDir 127 28 false) State.reset) (fun t =>
    decide (slotHolds t [0x7F, 0x5F, 0x20] .ops = true ∧ t.ost = .accepted)) = true := by decide
/-- E10 and section 2.1: the address is checked first. -/
theorem test_speedDir_outOfRange : buildSpeedDir 5 0 255 false = .outOfRange .addr ∧
    nextWith (exec (.speedDir 0 0 true) State.reset) (fun t =>
      decide (t.ost = .outOfRange ∧ t.pend.valid = false)) = true := by decide
/-- E11: REPLACED under OVERWRITE. -/
theorem test_idle_E11 : nextWith (exec .idle (at' .start .h1 (full estopFrame))) (fun t =>
    decide (slotHolds t [0xFF, 0x00, 0xFF] .ops = true ∧ t.ost.code = 0b010)) = true := by decide
/-- P5 line 3. -/
theorem test_dccReset_P5 : nextWith (exec .dccReset (at' (.data 0 3) .h1 empty)) (fun t =>
    decide (slotHolds t [0x00, 0x00, 0x00] .ops = true ∧ pendFull t = true)) = true := by decide
/-- Section 2.1: `BSTOP STOP` and `BSTOP ESTOP`. -/
theorem test_bcastStop_frames : built (buildBcastStop 5 false) [0x00, 0x50, 0x50] .ops = true ∧
    built (buildBcastStop 5 true) [0x00, 0x51, 0x51] .ops = true := by decide
/-- Section 2.1: a full register. -/
theorem test_svcMode_full : built (buildSvcMode 5 5 [0x11, 0x22, 0x33, 0x44, 0x55])
    [0x11, 0x22, 0x33, 0x44, 0x55, 0x11] .svc = true := by decide
/-- Section 2.1: L = 6. -/
theorem test_svcMode_tooLong : buildSvcMode 5 6 [0, 0, 0, 0, 0] = .outOfRange .len := by decide

/-- E17: the pin disagrees with the half. -/
theorem test_badState_E17 :
    isBadState (exec (.advance none) { at' .start .h1 empty with pin := true }) = true := by decide

/-- Section 2.3: `Bits(F)` of the L = 1 service-mode frame, 66 half-bits, 5340 us. -/
theorem test_wireBits_svc1 : wireBits Params.default ⟨2, [0x00, 0x00, 0xFF], .svc⟩ =
    List.replicate 14 true ++ [false] ++ List.replicate 8 false ++ [false] ++ List.replicate 8 false ++ [true] ∧
    halfBits Params.default ⟨2, [0x00, 0x00, 0xFF], .svc⟩ = 66 ∧
    frameTime Params.default ⟨2, [0x00, 0x00, 0xFF], .svc⟩ = 5340 := by decide

/-- 30 R94: `SPEED 3, FWD, 14` is `DESC 0x000000010E0300`. -/
theorem test_asm_desc :
    assemblePacket 5 (.speed 3 true 14) = assemblePacket 5 (.desc 14 0x000000010E0300) := by decide

/-- 30 R94: a labelled line with a comment. -/
theorem test_asm_line :
    parseLine "go: ADVANCE+OFFER SVC [0x7C, 0, 5] ; P4".toList = some (.advanceOffer (.svc [0x7C, 0, 5])) ∧
    parseLine "ADVANCE x71".toList = some (.advanceTimes 71) ∧ parseLine "OFFER".toList = none := by decide

/-- 20 R50: a register of the wrong size is no state of the block. -/
theorem test_register_size :
    inv (at' .start .h1 ⟨false, ⟨3, [0, 0, 0], .ops⟩⟩) = false ∧
    frameByte speedFrame 2 = some 0x7B ∧ frameByte speedFrame 3 = none := by decide

/-- 10 R31, I18. -/
theorem test_cursor_kinds : phaseOfBits ⟨2, 9, 1, 7⟩ = some (.data 1 7) ∧ phaseOfBits ⟨5, 0, 0, 0⟩ = none := by
  decide

/-- Every row of the table runs as the first operation after reset. -/
theorem test_withFetchWord_runs :
    nextWith (step (State.reset.withFetchWord 8 0b000)) (fun t => t.ost == .none) = true ∧
    nextWith (step (State.reset.withFetchWord 8 0b010)) (fun t => t.pin) = true ∧
    nextWith (step (State.reset.withFetchWord 8 0b001)) (fun t => t.ost == .outOfRange) = true ∧
    nextWith (step (State.reset.withFetchWord 8 0b100)) (fun t => t.phase == .pre 10) = true ∧
    nextWith (step (State.reset.withFetchWord 56 0x010E0300)) (slotHolds · [0x03, 0x78, 0x7B] .ops) = true ∧
    nextWith (step (State.reset.withFetchWord 56 0x01)) (slotHolds · [0xFF, 0x00, 0xFF] .ops) = true ∧
    nextWith (step (State.reset.withFetchWord 56 0x02)) (slotHolds · [0x00, 0x00, 0x00] .ops) = true ∧
    nextWith (step (State.reset.withFetchWord 56 0x0103)) (slotHolds · [0x00, 0x51, 0x51] .ops) = true ∧
    nextWith (step (State.reset.withFetchWord 56 0x05007C0304)) (slotHolds · [0x7C, 0x00, 0x05, 0x79] .svc) = true := by
  decide

/-! ## Witnesses: every statement with hypotheses has a state and operands that meet them, each clause its own -/

theorem test_witness_StepRunsTheSampledOperation :
    legal State.reset.cfg = true ∧ legal farParams = true ∧ State.reset.inputs = [] ∧
    (State.reset.setInputs [idleSample 5]).inputs = [idleSample 5] := by decide

theorem test_witness_EveryControlVectorHasItsMeaning :
    legal State.reset.cfg = true ∧ BitVec.getLsbD (0b100 : BitVec 3) 2 = true ∧
    BitVec.getLsbD (0b111 : BitVec 3) 2 = true := by decide

theorem test_witness_DecodeOfEncodeIsTheInstruction :
    (Instr.advance (some idleWord)).wellFormed 5 = true ∧ (Instr.advance (some idleWord)).isPacket = false ∧
    (Instr.svcMode 0xFF [1, 2]).wellFormed 2 = true ∧ (Instr.svcMode 0xFF [1, 2]).isPacket = true := by decide

theorem test_witness_ReencodedDescriptorBuildsTheSame :
    decodePacket 5 (bytesOfWord 7 0xFFFFFFFE0E0300) = .ok (.speedDir 3 14 false) ∧
    decodePacket 2 [4, 1, 9, 8] = .ok (.svcMode 1 [9, 8]) := by decide

theorem test_witness_IgnoredDescriptorBitsDoNotMatter :
    (descTag [5] = descTag [5, 1] ∧ 5 ≤ (descTag [5]).toNat) ∧
    (descTag [0, 3, 14, 1] = 0 ∧ descAddr [0, 3, 14, 1] = descAddr [0, 3, 14, 0xFF] ∧
      descSpeed [0, 3, 14, 1] = descSpeed [0, 3, 14, 0xFF] ∧ descDir [0, 3, 14, 1] = descDir [0, 3, 14, 0xFF]) ∧
    (descTag [1] = descTag [1, 7] ∧ descTag [1] = 1 ∧ descTag [2] = descTag [2, 7] ∧ descTag [2] = 2) ∧
    (descTag [3, 1] = descTag [3, 0xFF] ∧ descTag [3, 1] = 3 ∧ descEmergency [3, 1] = descEmergency [3, 0xFF]) ∧
    (descTag [4, 1, 9, 8] = descTag [4, 1, 9, 7] ∧ descTag [4, 1, 9, 8] = 4 ∧ descLen [4, 1, 9, 8] = descLen [4, 1, 9, 7] ∧
      ∀ j, j < (descLen [4, 1, 9, 8]).toNat → descByte [4, 1, 9, 8] (2 + j) = descByte [4, 1, 9, 7] (2 + j)) := by
  decide

theorem test_witness_OfferRunsThePacketCommandItCarries :
    decodePacket State.reset.cfg.maxPayload idleWord = .ok .idle := by decide

theorem test_witness_CursorRegistersSpellThePhase :
    inv (at' (.data 2 7) .h1 empty) = true ∧ inv (at' (.sep 1) .h1 empty) = true ∧
    inv (at' (.pre 10) .h1 empty) = true ∧
    legal Params.default = true ∧ phaseOk Params.default speedFrame (.data 2 7) = true ∧
    phaseOk farParams speedFrame (.pre 255) = true ∧
    (⟨0, 9, 1, 2⟩ : CursorBits).kind = (⟨0, 9, 5, 6⟩ : CursorBits).kind ∧
    (⟨2, 9, 1, 2⟩ : CursorBits).idx = (⟨2, 8, 1, 2⟩ : CursorBits).idx ∧
    (⟨2, 9, 1, 2⟩ : CursorBits).bit = (⟨2, 8, 1, 2⟩ : CursorBits).bit ∧
    (⟨3, 9, 1, 2⟩ : CursorBits).idx = (⟨3, 8, 1, 7⟩ : CursorBits).idx := by decide

theorem test_witness_SpeedDirOffersItsFrame :
    (1 ≤ (1 : Byte).toNat ∧ (1 : Byte).toNat ≤ 127 ∧ (0 : Byte).toNat = 0 ∧ (0 : Byte).toNat ≤ 28) ∧
    (1 ≤ (127 : Byte).toNat ∧ (127 : Byte).toNat ≤ 127 ∧ 1 ≤ (28 : Byte).toNat ∧ (28 : Byte).toNat ≤ 28) := by
  decide

theorem test_witness_SpeedDirOutOfRangeOnlySetsTheStatus :
    (0 : Byte).toNat = 0 ∧ 127 < (128 : Byte).toNat ∧
    (1 ≤ (127 : Byte).toNat ∧ (127 : Byte).toNat ≤ 127 ∧ 28 < (29 : Byte).toNat) := by decide

theorem test_witness_LeavesOffer_cases :
    (at' .start .h1 empty).pend.valid = false ∧
    ((at' .start .h1 (full svcFrame)).pend.valid = true ∧
      (at' .start .h1 (full svcFrame)).cfg.mboxPolicy = .overwrite) ∧
    ((rejecting (full svcFrame)).pend.valid = true ∧ (rejecting (full svcFrame)).cfg.mboxPolicy = .reject) := by
  decide

theorem test_witness_SvcModeOffersItsFrame :
    ([0, 0, 0, 0, 0] : List Byte).length = State.reset.cfg.maxPayload ∧
    (1 ≤ (1 : Byte).toNat ∧ (5 : Byte).toNat ≤ State.reset.cfg.maxPayload) ∧
    (0 : Byte).toNat = 0 ∧ State.reset.cfg.maxPayload < (6 : Byte).toNat := by decide

theorem test_witness_OutOfRangeHasFourCauses :
    build State.reset.cfg.maxPayload (bytesOfWord 7 0x00000000008000) = .outOfRange .addr ∧
    build State.reset.cfg.maxPayload (bytesOfWord 7 0x000000001D0300) = .outOfRange .speed ∧
    build State.reset.cfg.maxPayload (bytesOfWord 7 0x00000000000604) = .outOfRange .len ∧
    build State.reset.cfg.maxPayload (bytesOfWord 7 0x00000000000005) = .outOfRange .tag := by decide

theorem test_witness_EveryBuiltFrameHasAGoodChecksum :
    built (build 2 [0x04, 0x01, 0xAB, 0x00]) [0xAB, 0xAB] .svc = true ∧
    built (build 5 (bytesOfWord 7 0x55443322110504)) [0x11, 0x22, 0x33, 0x44, 0x55, 0x11] .svc = true := by
  decide

theorem test_witness_ClassAndLengthFollowTheVariant :
    (descTag (bytesOfWord 7 0x00000000000104) = 0x04 ∧
      built (build 5 (bytesOfWord 7 0x00000000000104)) [0x00, 0x00] .svc = true) ∧
    (descTag idleWord ≠ 0x04 ∧ (build 5 idleWord).isOk = true) := by decide

theorem test_witness_FirstByteValues :
    (build 5 (bytesOfWord 7 0x000000010E0300)).isOk = true ∧ descTag (bytesOfWord 7 0x000000010E0300) = 0x00 ∧
    (build 5 idleWord).isOk = true ∧ descTag idleWord = 0x01 ∧
    (build 5 (bytesOfWord 7 0x02)).isOk = true ∧ descTag (bytesOfWord 7 0x02) = 0x02 ∧
    (build 5 (bytesOfWord 7 0x0103)).isOk = true ∧ descTag (bytesOfWord 7 0x0103) = 0x03 := by decide

theorem test_witness_ReservedSpeedCodesAreNeverSent :
    (build 5 (bytesOfWord 7 0x000000010E0300)).isOk = true ∧ descTag (bytesOfWord 7 0x000000010E0300) = 0x00 ∧
    (build 5 (bytesOfWord 7 0x00000000000103)).isOk = true ∧ descTag (bytesOfWord 7 0x00000000000103) = 0x03 := by
  decide

theorem test_witness_SpeedCodeReadsBack : 0 ≤ 28 ∧ 28 ≤ 28 := by decide

theorem test_witness_FrameCountsAndTime : (1 ≤ (⟨1, [0x00], .ops⟩ : Frame).len ∧
    (⟨1, [0x00], .ops⟩ : Frame).len ≤ (⟨1, [0x00], .ops⟩ : Frame).bytes.length) ∧
    HoldsFrame State.reset.cur [0xFF, 0x00, 0xFF] .ops ∧ HoldsFrame ⟨3, [0, 0, 0, 7], .ops⟩ [0x00, 0x00, 0x00] .ops :=
  ⟨by decide, ⟨rfl, rfl, rfl⟩, rfl, rfl, rfl⟩

theorem test_witness_AdvancesEmitTheWholeFrame :
    inv (at' (.pre 10) .h1 (full svcFrame)) = true ∧ AtFrameStart (at' (.pre 10) .h1 (full svcFrame)) :=
  ⟨by decide, rfl, rfl⟩

/-- One state inside `Inv` for each phase, at the ends of its range, in each half. -/
theorem test_witness_phases :
    (∀ h : Bool, ∀ ph ∈ [Phase.pre 10, .pre 1, .start, .data 0 7, .data 1 0, .data 2 0, .sep 0, .sep 1, .endBit],
      inv (at' ph (if h then .h1 else .h2) empty) = true) := by decide

theorem test_witness_AdvanceWritesPinAndDelay : inv (at' (.data 2 0) .h2 empty) = true := by decide

theorem test_witness_AdvanceStepsTheCursor :
    inv (at' (.data 1 0) .h2 empty) = true ∧ 1 + 1 < (at' (.data 1 0) .h2 empty).cur.len ∧
    inv (at' (.data 2 0) .h2 empty) = true ∧ 2 + 1 = (at' (.data 2 0) .h2 empty).cur.len := by decide

theorem test_witness_HandoffInstallsOrRetransmits :
    (inv (at' .endBit .h2 (full svcFrame)) = true ∧ AtBoundary (at' .endBit .h2 (full svcFrame))) ∧
    (inv (at' .endBit .h2 empty) = true ∧ AtBoundary (at' .endBit .h2 empty)) :=
  ⟨⟨by decide, rfl, rfl⟩, by decide, rfl, rfl⟩

theorem test_witness_AdvanceFrame :
    (∃ t, exec (.advance none) (at' .start .h1 (full svcFrame)) = .next t) ∧
    ¬ AtBoundary (at' .start .h1 (full svcFrame)) ∧
    (∃ t, exec (.advance none) (at' .endBit .h2 empty) = .next t) :=
  ⟨⟨_, rfl⟩, by simp [AtBoundary, at'], ⟨_, rfl⟩⟩

theorem test_witness_AdvanceFaultsExactlyOutsideInv :
    inv (at' (.data 3 0) .h1 empty) = false ∧ inv (at' (.data 2 0) .h1 empty) = true := by decide

theorem test_witness_EveryAdvanceTogglesThePin : inv (at' .start .h2 empty) = true := by decide

theorem test_witness_OfferWritesTheMailbox :
    (build State.reset.cfg.maxPayload idleWord).isOk = true ∧
    build State.reset.cfg.maxPayload (bytesOfWord 7 0xFF) = .outOfRange .tag := by decide

theorem test_witness_OfferFrame :
    Instr.idle.isPacket = true ∧
    (offerDesc idleWord (at' .start .h1 empty)).ost = .accepted ∧
    (offerDesc idleWord (at' .start .h1 (full svcFrame))).ost = .replaced ∧
    (offerDesc idleWord (rejecting (full svcFrame))).ost = .rejectedFull ∧
    (offerDesc [0xFF] (at' .start .h1 empty)).ost = .outOfRange := by decide

theorem test_witness_SameEdgeAdvanceRunsFirst :
    inv (at' .endBit .h2 (full svcFrame)) = true ∧ inv (at' .endBit .h2 empty) = true ∧
    (at' .endBit .h2 empty).phase = .endBit ∧ (at' .endBit .h2 empty).half = .h2 ∧
    (build (at' .endBit .h2 empty).cfg.maxPayload idleWord).isOk = true := by decide

theorem test_witness_ResetEstablishesTheResetState : legal State.reset.cfg = true ∧ legal farParams = true := by
  decide

theorem test_witness_ResetForgetsTheEarlierState :
    State.reset.cfg = (at' .endBit .h2 (full svcFrame)).cfg ∧
    State.reset.inputs = (at' .endBit .h2 (full svcFrame)).inputs ∧
    (∃ t, exec .reset State.reset = .next t) ∧
    ∃ r, exec .reset { State.reset with cfg := { Params.default with initDesc := [5] } } = .refused r :=
  ⟨rfl, rfl, ⟨_, rfl⟩, _, rfl⟩

theorem test_witness_InitDescThatDoesNotBuildIsRefused :
    build 5 ({ Params.default with initDesc := [5, 0, 0, 0, 0, 0, 0] }).initDesc = .outOfRange .tag := by decide

theorem test_witness_FirstFrameAfterResetIsTheInitialOne : legal farParams = true := by decide

theorem test_witness_NoOperationWritesTheConfiguration : ∃ t, exec .idle State.reset = .next t := ⟨_, rfl⟩

theorem test_witness_WritersOfEachElement :
    ∃ t, step (State.reset.setInputs [⟨false, true, false, idleWord⟩]) = .next t ∧ t.half ≠ State.reset.half :=
  ⟨_, rfl, by decide⟩

theorem test_witness_ResetStateIsSafe :
    legal State.reset.cfg = true ∧ ∃ t, exec .reset (at' .endBit .h1 empty) = .next t := ⟨by decide, _, rfl⟩

theorem test_witness_EveryEdgeKeepsInv :
    Safe State.reset ∧ ∃ t, step (State.reset.setInputs [⟨false, true, true, idleWord⟩]) = .next t :=
  ⟨⟨by decide, by decide⟩, _, rfl⟩

theorem test_witness_EveryInstructionKeepsInv :
    Safe State.reset ∧ (Instr.svcMode 5 [1, 2, 3, 4, 5]).wellFormed State.reset.cfg.maxPayload = true ∧
    ∃ t, exec (.svcMode 5 [1, 2, 3, 4, 5]) State.reset = .next t :=
  ⟨⟨by decide, by decide⟩, by decide, _, rfl⟩

theorem test_witness_TheMachineNeverStops : Safe (at' .endBit .h2 (full svcFrame)) := ⟨by decide, by decide⟩

theorem test_witness_NoRunFromResetReachesABadState :
    legal State.reset.cfg = true ∧ ∃ r, exec .reset State.reset = .next r := ⟨by decide, _, rfl⟩

theorem test_witness_WaitingPacketIsInvisibleBeforeTheBoundary :
    inv ((at' .start .h1 empty).setPend empty) = true ∧ inv ((at' .start .h1 empty).setPend (full svcFrame)) = true ∧
    ¬ AtBoundary (at' .start .h1 empty) := ⟨by decide, by decide, by simp [AtBoundary, at']⟩

theorem test_witness_OffersAndPausesDoNotDisturbTheFrame :
    Safe (at' .endBit .h1 empty) ∧
    (∀ x ∈ [⟨false, true, true, idleWord⟩, idleSample 5, ⟨false, true, false, idleWord⟩], x.rst = false) ∧
    List.countP (fun x => x.adv) [⟨false, true, true, idleWord⟩, idleSample 5, ⟨false, true, false, idleWord⟩]
      = halfBitsLeft (at' .endBit .h1 empty) ∧
    List.countP (fun x => x.adv) [⟨false, true, true, idleWord⟩, idleSample 5]
      < halfBitsLeft (at' .endBit .h1 empty) := ⟨⟨by decide, by decide⟩, by decide, by decide, by decide⟩

theorem test_witness_NoHandoffBeforeTheBoundary :
    inv (at' .endBit .h1 empty) = true ∧ 1 < halfBitsLeft (at' .endBit .h1 empty) := by decide

theorem test_witness_WaitForTheBoundaryIsBounded :
    inv (at' (.pre 10) .h1 empty) = true ∧ (at' (.pre 10) .h1 empty).cfg = Params.default ∧
    (at' (.pre 10) .h1 empty).cur.cls = .ops ∧
    (at' (.pre 10) .h1 empty).cur.len = 3 ∧ halfBitsLeft (at' (.pre 10) .h1 empty) = 76 := by decide

theorem test_witness_WaitingPacketIsSentNext :
    Safe (at' (.data 1 4) .h2 (full svcFrame)) ∧ (at' (.data 1 4) .h2 (full svcFrame)).pend.valid = true :=
  ⟨⟨by decide, by decide⟩, rfl⟩

theorem test_witness_FrameIsRefreshedForEver :
    Safe (at' (.pre 10) .h1 empty) ∧ AtFrameStart (at' (.pre 10) .h1 empty) ∧ (at' (.pre 10) .h1 empty).pend.valid = false :=
  ⟨⟨by decide, by decide⟩, ⟨rfl, rfl⟩, rfl⟩

theorem test_witness_AcceptedPacketIsSentWhole :
    Safe (at' .endBit .h2 (full svcFrame)) ∧
    ∃ t, exec (.offer idleWord) (at' .endBit .h2 (full svcFrame)) = .next t ∧ t.ost = .replaced :=
  ⟨⟨by decide, by decide⟩, _, rfl, by decide⟩

theorem test_witness_HeldStrobeIsRepeatedAdvance : legal State.reset.cfg = true := by decide

/-- Two states that differ in what no rule reads. -/
theorem test_witness_UnreadContentIsNeverObserved :
    Safe (at' .start .h1 empty) ∧ Safe (at' .start .h1 ⟨false, svcFrame⟩) ∧ empty ≠ ⟨false, svcFrame⟩ ∧
    SameButUnread (at' .start .h1 empty) (at' .start .h1 ⟨false, svcFrame⟩) :=
  ⟨⟨by decide, by decide⟩, ⟨by decide, by decide⟩, by decide, rfl, ⟨rfl, rfl, rfl⟩, rfl, rfl, rfl, nofun,
    rfl, rfl, rfl, rfl⟩

theorem test_witness_AssemblerEncodesItsNumbers :
    (2 ≤ 2 ∧ 255 ≤ 255) ∧ (255 < 256 ∧ 256 ≤ 256) ∧
    1 ≤ ([0x7C, 0, 255] : List Nat).length ∧ ([0x7C, 0, 255] : List Nat).length ≤ 5 ∧ (∀ b ∈ ([0x7C, 0, 255] : List Nat), b < 256) ∧
    (([0, 256] : List Nat).length ≤ 5 ∧ ∃ b ∈ ([0, 256] : List Nat), 256 ≤ b) ∧
    5 < ([0, 0, 0, 0, 0, 0] : List Nat).length := by decide

theorem test_witness_FrameLineEndsAtTheHandoff :
    inv (at' (.pre 10) .h1 empty) = true ∧ inv (at' .endBit .h2 empty) = true := by decide

end Sys2Proof.Tests
end

/-! # Proofs for 10_state.md

The frames the builder answers, the invariant of every operation, the relation that hides what no rule reads, and the
statements of the state elements. -/

/-! ## The frames a register can hold inside `Inv` -/

namespace Sys2Proof.Machine

/-- A frame that `Inv` admits in either register: the register has its size, and condition 1 of 10 R33. -/
def FrameFits (p : Params) (F : Frame) : Prop := F.bytes.length = p.frameMax ∧ frameOk p F = true

/-- An answer of the builder that OFFER and RESET can install inside `Inv`. -/
def Built.Fits (p : Params) (r : Built) : Prop := ∀ F, r = .ok F → FrameFits p F

@[simp] theorem xsum_withChecksum (l : List Byte) : xsum (withChecksum l) = 0 := by
  simp [withChecksum, xsum_append, xsum]

@[simp] theorem withChecksum_length (l : List Byte) : (withChecksum l).length = l.length + 1 := by
  simp [withChecksum]

/-- The builder's frames: a payload of 1 to `MAX_PAYLOAD` bytes and its checksum (40 R111, R119). -/
theorem frameFits_withChecksum {p : Params} {payload : List Byte} (cls : FrameClass)
    (h1 : 1 ≤ payload.length) (h2 : payload.length ≤ p.maxPayload) :
    FrameFits p (frameOf p.maxPayload (withChecksum payload) cls) := by
  refine ⟨frameOf_bytes_length cls (by simp [h2]), (frameOk_iff _ _).2 ?_⟩
  simp [Params.frameMax, h1, h2]

@[simp] theorem Built.fits_outOfRange (p : Params) (r : OutOfRange) : (Built.outOfRange r).Fits p := nofun

@[simp] theorem Built.fits_ok_iff (p : Params) (F : Frame) : (Built.ok F).Fits p ↔ FrameFits p F := by
  simp [Built.Fits]

section Builders
variable {p : Params} (hp : 2 ≤ p.maxPayload)
include hp

theorem buildSpeedDir_fits (addr speed : Byte) (dir : Bool) :
    (buildSpeedDir p.maxPayload addr speed dir).Fits p := by
  unfold buildSpeedDir
  split
  · simp
  · split
    · simp
    · exact (Built.fits_ok_iff _ _).2 (frameFits_withChecksum .ops (by simp) (by simpa using hp))

theorem buildIdle_fits : (buildIdle p.maxPayload).Fits p :=
  (Built.fits_ok_iff _ _).2 (frameFits_withChecksum (payload := [0xFF, 0x00]) .ops (by simp) hp)

theorem buildDccReset_fits : (buildDccReset p.maxPayload).Fits p :=
  (Built.fits_ok_iff _ _).2 (frameFits_withChecksum (payload := [0x00, 0x00]) .ops (by simp) hp)

theorem buildBcastStop_fits (emergency : Bool) : (buildBcastStop p.maxPayload emergency).Fits p := by
  have h := frameFits_withChecksum (p := p) (payload := [0x00, bcastDataByte emergency]) .ops (by simp) hp
  simpa [buildBcastStop, withChecksum, xsum] using h

end Builders

theorem buildSvcMode_fits {p : Params} (len : Byte) {payload : List Byte} (h : payload.length = p.maxPayload) :
    (buildSvcMode p.maxPayload len payload).Fits p := by
  unfold buildSvcMode
  split
  · simp
  · refine (Built.fits_ok_iff _ _).2 (frameFits_withChecksum .svc ?_ ?_)
    all_goals simp only [List.length_take, h]; omega

/-- Whatever the descriptor wires hold, a frame that `Build` answers fits (40 R119). -/
theorem build_fits {p : Params} (hp : 2 ≤ p.maxPayload) (d : Desc) : (build p.maxPayload d).Fits p := by
  unfold build
  split
  · exact buildSpeedDir_fits hp _ _ _
  · exact buildIdle_fits hp
  · exact buildDccReset_fits hp
  · exact buildBcastStop_fits hp _
  · exact buildSvcMode_fits _ (descPayload_length d _)
  · exact Built.fits_outOfRange p .tag

/-- A well-formed packet command is the OFFER of an answer that fits. -/
theorem exec_packet_fits {i : Instr} {s : State} (hp : 2 ≤ s.cfg.maxPayload) (hi : i.isPacket = true)
    (hw : i.wellFormed s.cfg.maxPayload = true) :
    ∃ r : Built, r.Fits s.cfg ∧ exec i s = .next (offerBuilt r s) := by
  cases i with
  | speedDir a v dir => exact ⟨_, buildSpeedDir_fits hp a v dir, rfl⟩
  | idle => exact ⟨_, buildIdle_fits hp, rfl⟩
  | dccReset => exact ⟨_, buildDccReset_fits hp, rfl⟩
  | bcastStop e => exact ⟨_, buildBcastStop_fits hp e, rfl⟩
  | svcMode len payload =>
    exact ⟨_, buildSvcMode_fits len (by simpa [Instr.wellFormed] using hw), rfl⟩
  | nop => cases hi
  | advance _ => cases hi
  | offer _ => cases hi
  | reset => cases hi

/-! ## Legal configurations -/

/-- The least payload of 00 R7. -/
theorem two_le_maxPayload_of_legal {p : Params} (h : legal p = true) : 2 ≤ p.maxPayload := by
  simp only [legal, Params.inRange, Bool.and_eq_true, decide_eq_true_eq] at h
  omega

/-- A legal preamble is not empty and fits the 8-bit counter of the cursor (00 R7; 10 R31). -/
theorem preLen_of_legal {p : Params} (h : legal p = true) (c : FrameClass) :
    1 ≤ preLen p c ∧ preLen p c ≤ 255 := by
  simp only [legal, Params.inRange, Bool.and_eq_true, decide_eq_true_eq] at h
  cases c <;> simp only [preLen] <;> omega

/-- `INIT_DESC` of a legal configuration builds (70 R225). -/
theorem build_initDesc_of_legal {p : Params} (h : legal p = true) :
    ∃ F, build p.maxPayload p.initDesc = .ok F := by
  simp only [legal, Bool.and_eq_true] at h
  obtain ⟨-, h⟩ := h
  cases hb : build p.maxPayload p.initDesc with
  | ok F => exact ⟨F, rfl⟩
  | outOfRange r => simp [hb, Built.isOk] at h

/-! ## ADVANCE and RESET over the shared operations -/

theorem exec_advance_none (s : State) : exec (.advance none) s = advanceHalfBit s := by
  simp only [exec, execAdvance]
  cases advanceHalfBit s <;> rfl

/-- With an OFFER at the same edge, the OFFER runs on the state that ADVANCE left (42 R164). -/
theorem exec_advance_some {s t : State} (h : advanceHalfBit s = .next t) (d : Desc) :
    exec (.advance (some d)) s = .next (offerDesc d t) := by
  simp only [exec, execAdvance, h]

theorem exec_reset {s : State} {F : Frame} (h : build s.cfg.maxPayload s.cfg.initDesc = .ok F) :
    exec .reset s = .next (resetBlock F s) := by
  simp only [exec, execReset, h]

/-! ## The invariant, operation by operation -/

/-- The start of a preamble is in the ranges of 10 R31. -/
theorem phaseOk_pre_preLen {p : Params} (h : legal p = true) (F : Frame) :
    phaseOk p F (.pre (preLen p F.cls)) = true := by
  simp [phaseOk, preLen_of_legal h]

/-- `NextPhase` stays in the ranges of 10 R31. -/
theorem phaseOk_nextPhase {p : Params} {F : Frame} {ph ph' : Phase} (hlen : 2 ≤ F.len)
    (h : phaseOk p F ph = true) (hn : nextPhase F ph = some ph') : phaseOk p F ph' = true := by
  cases ph with
  | pre k =>
    simp only [nextPhase] at hn
    split at hn <;> cases hn
    · simp only [phaseOk, Bool.and_eq_true, decide_eq_true_eq] at h ⊢
      omega
    · rfl
  | start =>
    cases hn
    simp [phaseOk]
  | data i b =>
    simp only [phaseOk, Bool.and_eq_true, decide_eq_true_eq] at h
    simp only [nextPhase] at hn
    split at hn
    · cases hn
      simp only [phaseOk, Bool.and_eq_true, decide_eq_true_eq]
      omega
    · split at hn <;> cases hn
      · simp only [phaseOk, decide_eq_true_eq]
        omega
      · rfl
  | sep i =>
    cases hn
    simp only [phaseOk, Bool.and_eq_true, decide_eq_true_eq] at h ⊢
    omega
  | endBit => cases hn

/-- A duration is one of the two half-periods (41 R143). -/
theorem dur_cases (p : Params) (b : Bool) : dur p b = p.tOneUs ∨ dur p b = p.tZeroUs := by
  cases b
  · exact .inr rfl
  · exact .inl rfl

/-- The frame the handoff installs fits, waiting or not (10 R33). -/
theorem nextFrame_fits {s : State} (h : inv s = true) : FrameFits s.cfg (nextFrame s) := by
  obtain ⟨⟨hrc, hrp⟩, hc, -, hv, -⟩ := (inv_iff s).1 h
  unfold nextFrame
  split
  · next hvalid => exact ⟨hrp, hv hvalid⟩
  · exact ⟨hrc, hc⟩

/-- ADVANCE keeps `Inv`: in the first half only `HALF` moves, in the second the cursor steps or the handoff runs. -/
theorem inv_advance {s : State} (hl : legal s.cfg = true) (h : inv s = true) (b : Bool) :
    inv (stepCursor (emitHalfBit b s)) = true := by
  obtain ⟨⟨hrc, hrp⟩, hc, hph, hv, -, -⟩ := (inv_iff s).1 h
  have hd : dur s.cfg b = 0 ∨ dur s.cfg b = s.cfg.tOneUs ∨ dur s.cfg b = s.cfg.tZeroUs := .inr (dur_cases _ b)
  rw [inv_iff]
  obtain ⟨hh, he⟩ | ⟨hh, p, hn, he⟩ | ⟨hh, -, he⟩ := stepCursor_cases (emitHalfBit b s)
  · rw [emitHalfBit_half] at hh
    rw [he]
    exact ⟨⟨hrc, hrp⟩, hc, hph, hv, by simp [hh, level], hd⟩
  · rw [emitHalfBit_half] at hh
    rw [he]
    exact ⟨⟨hrc, hrp⟩, hc, phaseOk_nextPhase (cur_of_inv h).1 hph hn, hv, by simp [hh, level], hd⟩
  · rw [emitHalfBit_half] at hh
    obtain ⟨hrn, hn⟩ := nextFrame_fits h
    rw [he, handoff_eq]
    exact ⟨⟨hrn, hrp⟩, hn, phaseOk_pre_preLen hl _, nofun, by simp [hh, level], hd⟩

/-- OFFER keeps `Inv` when the frame it offers fits (42 R162). -/
theorem inv_offerBuilt {s : State} {r : Built} (hr : r.Fits s.cfg) (h : inv s = true) :
    inv (offerBuilt r s) = true := by
  obtain ⟨⟨hrc, hrp⟩, hc, hph, hv, hpin, hd⟩ := (inv_iff s).1 h
  rw [inv_iff]
  obtain he | ⟨F, rfl, he⟩ := offerSlot_cases r s.cfg.mboxPolicy s.pend
  · simp only [offerBuilt_pend, he]
    exact ⟨⟨hrc, hrp⟩, hc, hph, hv, hpin, hd⟩
  · obtain ⟨hrF, hF⟩ := hr F rfl
    simp only [offerBuilt_pend, he]
    exact ⟨⟨hrc, hrF⟩, hc, hph, fun _ => hF, hpin, hd⟩

/-- RESET establishes `Inv` with any frame that fits (70 R220). -/
theorem inv_resetBlock {s : State} {F : Frame} (hl : legal s.cfg = true) (hF : FrameFits s.cfg F) :
    inv (resetBlock F s) = true := by
  obtain ⟨hrF, hF⟩ := hF
  rw [inv_iff, resetBlock_eq]
  exact ⟨⟨hrF, unspecifiedFrame_bytes_length _ _⟩, hF, phaseOk_pre_preLen hl F, nofun, rfl, .inl rfl⟩

end Sys2Proof.Machine

namespace Sys2Proof

open Machine

/-- ADVANCE keeps a state safe. -/
theorem Safe.advanceHalfBit {s t : State} (hs : Safe s) (h : advanceHalfBit s = .next t) : Safe t := by
  obtain ⟨hi, b, -, rfl⟩ := advanceHalfBit_next h
  exact ⟨by simpa using hs.1, inv_advance hs.1 hi b⟩

/-- OFFER keeps a state safe, whatever the descriptor wires hold. -/
theorem Safe.offerDesc {s : State} (hs : Safe s) (d : Desc) : Safe (offerDesc d s) :=
  ⟨hs.1, inv_offerBuilt (build_fits (two_le_maxPayload_of_legal hs.1) d) hs.2⟩

/-- RESET makes any state of a legal configuration safe. -/
theorem safe_resetBlock {s : State} {F : Frame} (hl : legal s.cfg = true)
    (hb : build s.cfg.maxPayload s.cfg.initDesc = .ok F) : Safe (resetBlock F s) :=
  ⟨hl, inv_resetBlock hl (build_fits (two_le_maxPayload_of_legal hl) _ F hb)⟩

/-- Every port operation keeps a state safe, with any descriptor as its operand. -/
theorem Safe.exec_port {i : Instr} {s t : State} (hs : Safe s) (hi : i.isPacket = false)
    (h : exec i s = .next t) : Safe t := by
  obtain ⟨-, rfl⟩ | ⟨-, ha⟩ | ⟨d, u, -, ha, rfl⟩ | ⟨d, -, rfl⟩ | ⟨F, -, hb, rfl⟩ := exec_port_next hi h
  · exact hs
  · exact hs.advanceHalfBit ha
  · exact (hs.advanceHalfBit ha).offerDesc d
  · exact hs.offerDesc d
  · exact safe_resetBlock hs.1 hb

/-- What an edge selects is a port operation (30 R92). -/
theorem fetch_isPacket (s : State) : (fetch s).isPacket = false := decodeCtl_isPacket _ _

/-- Settles O40: an edge is a port operation on a state that is safe as before. -/
theorem everyEdgeKeepsInv : Obligations.EveryEdgeKeepsInv := by
  intro s t hs h
  rw [step_of_legal hs.1] at h
  have hc : Safe (consumeSample s) := hs
  exact hc.exec_port (fetch_isPacket s) h

/-- Settles O41: a port operation by `Safe.exec_port`, a packet command as the OFFER of a frame that fits. -/
theorem everyInstructionKeepsInv : Obligations.EveryInstructionKeepsInv := by
  intro i s t hs hw h
  cases hi : i.isPacket with
  | false => exact hs.exec_port hi h
  | true =>
    obtain ⟨r, hr, he⟩ := exec_packet_fits (two_le_maxPayload_of_legal hs.1) hi hw
    rw [he] at h
    cases h
    exact ⟨hs.1, inv_offerBuilt hr hs.2⟩

/-- Settles O39: the reset state by evaluation, RESET by `safe_resetBlock`. -/
theorem resetStateIsSafe : Obligations.ResetStateIsSafe := by
  refine ⟨⟨by decide, by decide⟩, fun s t hl h => ?_⟩
  obtain ⟨F, hb⟩ := build_initDesc_of_legal hl
  rw [exec_reset hb] at h
  cases h
  exact safe_resetBlock hl hb

/-! ## What no rule reads -/

theorem SameFrame.refl (F : Frame) : SameFrame F F := ⟨rfl, rfl, rfl⟩

/-- The due bit is read from the frame's own bytes (41 R142). -/
theorem SameFrame.bitAt_eq {F G : Frame} (h : SameFrame F G) (ph : Phase) : bitAt F ph = bitAt G ph := by
  obtain ⟨-, hsent, -⟩ := h
  cases ph with
  | data i b => simp only [bitAt, frameByte_eq, hsent]
  | pre k => rfl
  | start => rfl
  | sep i => rfl
  | endBit => rfl

/-- The cursor reads only the length of the frame (41 R145). -/
theorem SameFrame.nextPhase_eq {F G : Frame} (h : SameFrame F G) (ph : Phase) :
    nextPhase F ph = nextPhase G ph := by
  obtain ⟨hlen, -, -⟩ := h
  cases ph with
  | data i b => simp only [nextPhase, hlen]
  | pre k => rfl
  | start => rfl
  | sep i => rfl
  | endBit => rfl

/-- An OFFER reads only the valid bit of the slot (42 R162): two slots that differ in no more than the frame of an empty
slot take the same frame, with the same status. -/
theorem offer_reads_only_valid {slot slot' : Slot} (r : Built) (policy : MboxPolicy)
    (hv : slot.valid = slot'.valid) (hf : slot.valid = true → SameFrame slot.frame slot'.frame) :
    (offerSlot policy slot r).valid = (offerSlot policy slot' r).valid ∧
    ((offerSlot policy slot r).valid = true →
      SameFrame (offerSlot policy slot r).frame (offerSlot policy slot' r).frame) ∧
    offerStatus policy slot r = offerStatus policy slot' r := by
  obtain ⟨valid, frame⟩ := slot
  obtain ⟨valid', frame'⟩ := slot'
  cases hv
  cases r with
  | outOfRange _ => exact ⟨rfl, hf, rfl⟩
  | ok F =>
    cases valid with
    | false => exact ⟨rfl, fun _ => .refl F, rfl⟩
    | true =>
      cases policy with
      | overwrite => exact ⟨rfl, fun _ => .refl F, rfl⟩
      | reject => exact ⟨rfl, hf, rfl⟩

namespace SameButUnread

variable {s u : State}

/-- Both states hand off the same frame (42 R161). -/
theorem nextFrame (h : SameButUnread s u) : SameFrame (nextFrame s) (nextFrame u) := by
  obtain ⟨-, hcur, -, -, hvalid, hframe, -⟩ := h
  unfold Machine.nextFrame
  rw [← hvalid]
  split
  · next hv => exact hframe hv
  · exact hcur

theorem emitHalfBit (h : SameButUnread s u) (b : Bool) :
    SameButUnread (emitHalfBit b s) (emitHalfBit b u) := by
  obtain ⟨hcfg, hcur, hphase, hhalf, hvalid, hframe, -, -, host, hinputs⟩ := h
  exact ⟨hcfg, hcur, hphase, hhalf, hvalid, hframe, by simp [hhalf], by simp [hcfg], host, hinputs⟩

theorem setHalf (h : SameButUnread s u) (x : Half) : SameButUnread (s.setHalf x) (u.setHalf x) := by
  obtain ⟨hcfg, hcur, hphase, -, hrest⟩ := h
  exact ⟨hcfg, hcur, hphase, rfl, hrest⟩

theorem setPhase (h : SameButUnread s u) (p : Phase) : SameButUnread (s.setPhase p) (u.setPhase p) := by
  obtain ⟨hcfg, hcur, -, hrest⟩ := h
  exact ⟨hcfg, hcur, rfl, hrest⟩

theorem handoff (h : SameButUnread s u) : SameButUnread (handoff s) (handoff u) := by
  have hnext := h.nextFrame
  obtain ⟨-, -, hcls⟩ := id hnext
  obtain ⟨hcfg, -, -, hhalf, -, -, hpin, hdly, host, hinputs⟩ := h
  rw [handoff_eq, handoff_eq]
  exact ⟨hcfg, hnext, by simp only [hcfg, hcls], hhalf, rfl, nofun, hpin, hdly, host, hinputs⟩

/-- The cursor takes the same branch in both states. -/
theorem stepCursor (h : SameButUnread s u) : SameButUnread (stepCursor s) (stepCursor u) := by
  obtain ⟨-, hcur, hphase, hhalf, -⟩ := id h
  unfold Machine.stepCursor
  rw [← hhalf, ← hphase, ← hcur.nextPhase_eq]
  cases s.half with
  | h1 => exact h.setHalf .h2
  | h2 =>
    cases nextPhase s.cur s.phase with
    | some p => exact (h.setHalf .h1).setPhase p
    | none => exact (h.setHalf .h1).handoff

/-- ADVANCE completes in both states and emits the same half-bit. -/
theorem advanceHalfBit (h : SameButUnread s u) (hs : inv s = true) (hu : inv u = true) :
    ∃ t v, advanceHalfBit s = .next t ∧ advanceHalfBit u = .next v ∧ SameButUnread t v := by
  obtain ⟨-, hcur, hphase, -⟩ := id h
  obtain ⟨b, hb, hes⟩ := advanceHalfBit_of_inv hs
  obtain ⟨c, hc, heu⟩ := advanceHalfBit_of_inv hu
  have hbc : b = c := by
    rw [hcur.bitAt_eq, hphase, hc] at hb
    exact (Option.some.inj hb).symm
  subst hbc
  exact ⟨_, _, hes, heu, (h.emitHalfBit b).stepCursor⟩

theorem offerBuilt (h : SameButUnread s u) (r : Built) :
    SameButUnread (offerBuilt r s) (offerBuilt r u) := by
  obtain ⟨hcfg, hcur, hphase, hhalf, hvalid, hframe, hpin, hdly, -, hinputs⟩ := h
  obtain ⟨hv, hf, ho⟩ := offer_reads_only_valid r s.cfg.mboxPolicy hvalid hframe
  rw [SameButUnread]
  simp only [offerBuilt_pend, offerBuilt_ost, ← hcfg]
  exact ⟨hcfg, hcur, hphase, hhalf, hv, hf, hpin, hdly, ho, hinputs⟩

theorem offerDesc (h : SameButUnread s u) (d : Desc) :
    SameButUnread (offerDesc d s) (offerDesc d u) := by
  obtain ⟨hcfg, -⟩ := id h
  rw [offerDesc_eq, offerDesc_eq, ← hcfg]
  exact h.offerBuilt _

/-- RESET draws a fresh content of the slot, which no rule reads (70 R220). -/
theorem resetBlock (h : SameButUnread s u) (F : Frame) :
    SameButUnread (resetBlock F s) (resetBlock F u) := by
  obtain ⟨hcfg, -, -, -, -, -, -, -, -, hinputs⟩ := h
  rw [resetBlock_eq, resetBlock_eq, hcfg, hinputs]
  exact ⟨rfl, .refl F, rfl, rfl, rfl, nofun, rfl, rfl, rfl, rfl⟩

/-- Every port operation completes in both states and keeps the relation. -/
theorem exec_port (h : SameButUnread s u) (hs : Safe s) (hu : Safe u) {i : Instr} (hi : i.isPacket = false) :
    ∃ t v, exec i s = .next t ∧ exec i u = .next v ∧ SameButUnread t v := by
  cases i with
  | nop => exact ⟨s, u, rfl, rfl, h⟩
  | advance off =>
    obtain ⟨t, v, ht, hv, htv⟩ := h.advanceHalfBit hs.2 hu.2
    cases off with
    | none => exact ⟨t, v, (exec_advance_none s).trans ht, (exec_advance_none u).trans hv, htv⟩
    | some d => exact ⟨_, _, exec_advance_some ht d, exec_advance_some hv d, htv.offerDesc d⟩
  | offer d => exact ⟨_, _, rfl, rfl, h.offerDesc d⟩
  | reset =>
    obtain ⟨hcfg, -⟩ := id h
    obtain ⟨F, hF⟩ := build_initDesc_of_legal hs.1
    exact ⟨_, _, exec_reset hF, exec_reset (hcfg ▸ hF), h.resetBlock F⟩
  | speedDir _ _ _ => cases hi
  | idle => cases hi
  | dccReset => cases hi
  | bcastStop _ => cases hi
  | svcMode _ _ => cases hi

theorem consumeSample (h : SameButUnread s u) : SameButUnread (consumeSample s) (consumeSample u) := by
  obtain ⟨hcfg, hcur, hphase, hhalf, hvalid, hframe, hpin, hdly, host, hinputs⟩ := h
  exact ⟨hcfg, hcur, hphase, hhalf, hvalid, hframe, hpin, hdly, host, by simp [hinputs]⟩

/-- The environment drives both states alike. -/
theorem fetch_eq (h : SameButUnread s u) : fetch s = fetch u := by
  obtain ⟨hcfg, -, -, -, -, -, -, -, -, hinputs⟩ := h
  simp only [fetch, nextSample, hcfg, hinputs]

/-- Every edge completes in both states and keeps the relation. -/
theorem step (h : SameButUnread s u) (hs : Safe s) (hu : Safe u) :
    ∃ t v, step s = .next t ∧ step u = .next v ∧ SameButUnread t v := by
  have hcs : Safe (Machine.consumeSample s) := hs
  have hcu : Safe (Machine.consumeSample u) := hu
  rw [step_of_legal hs.1, step_of_legal hu.1, ← h.fetch_eq]
  exact h.consumeSample.exec_port hcs hcu (fetch_isPacket s)

/-- Related states show the same on every port (10 R39). -/
theorem outputs_eq (h : SameButUnread s u) : outputs s = outputs u := by
  obtain ⟨-, -, -, -, hvalid, -, hpin, hdly, host, -⟩ := h
  simp only [outputs, pendFull, hvalid, hpin, hdly, host]

end SameButUnread

/-- What one edge puts on the pin and the delay, before what the later edges do. -/
def seenAtEdge (i : Instr) (t : State) (later : List (Bool × Micros)) : List (Bool × Micros) :=
  match i with
  | .advance _ => (t.pin, t.dly) :: later
  | _ => later

/-- One more edge of an observed run. -/
theorem observe_succ {s t : State} (h : step s = .next t) (n : Nat) :
    observe (n + 1) s = (observe n t).map fun r => (r.1, seenAtEdge (fetch s) t r.2) := by
  simp only [observe, h]
  rfl

/-- Settles O54, by induction on the number of edges: `SameButUnread` is kept by every edge between safe states. -/
theorem unreadContentIsNeverObserved : Obligations.UnreadContentIsNeverObserved := by
  intro s u n
  induction n generalizing s u with
  | zero => exact fun _ _ h => ⟨s, u, [], rfl, rfl, h, h.outputs_eq⟩
  | succ n ih =>
    intro hs hu h
    obtain ⟨s', u', hs', hu', h'⟩ := h.step hs hu
    obtain ⟨t, v, tr, ht, hv, htv, hout⟩ := ih s' u' (everyEdgeKeepsInv s s' hs hs') (everyEdgeKeepsInv u u' hu hu') h'
    obtain ⟨-, -, -, -, -, -, hpin, hdly, -⟩ := h'
    have hseen : seenAtEdge (fetch u) u' tr = seenAtEdge (fetch s) s' tr := by
      simp only [seenAtEdge, h.fetch_eq, hpin, hdly]
    refine ⟨t, v, seenAtEdge (fetch s) s' tr, ?_, ?_, htv, hout⟩
    · rw [observe_succ hs', ht, Option.map_some]
    · rw [observe_succ hu', hv, Option.map_some, hseen]

/-! ## Frames of the operations -/

namespace Machine

/-- Away from the boundary the cursor step leaves `CUR` and the slot alone, and does not look at the slot. -/
theorem stepCursor_of_not_atBoundary {s : State} (h : ¬ AtBoundary s) :
    (stepCursor s).cur = s.cur ∧ (stepCursor s).pend = s.pend ∧
    ∀ slot, stepCursor (s.setPend slot) = (stepCursor s).setPend slot := by
  unfold stepCursor
  simp only [State.setPend_half, State.setPend_cur, State.setPend_phase]
  cases hh : s.half with
  | h1 => exact ⟨rfl, rfl, fun _ => rfl⟩
  | h2 =>
    cases hn : nextPhase s.cur s.phase with
    | some p => exact ⟨rfl, rfl, fun _ => rfl⟩
    | none => exact absurd ⟨(nextPhase_eq_none_iff _ _).1 hn, hh⟩ h

/-- With an empty slot the cursor step leaves `CUR` and the slot alone, at the boundary too (42 R161). -/
theorem stepCursor_of_empty {s : State} (h : s.pend.valid = false) :
    (stepCursor s).cur = s.cur ∧ (stepCursor s).pend = s.pend := by
  obtain ⟨-, he⟩ | ⟨-, p, -, he⟩ | ⟨-, -, he⟩ := stepCursor_cases s
  · exact he ▸ ⟨rfl, rfl⟩
  · exact he ▸ ⟨rfl, rfl⟩
  · simp [he, handoff, h]

/-- The halves alternate (42 R160). -/
theorem stepCursor_half (s : State) : (stepCursor s).half = if s.half = .h1 then .h2 else .h1 := by
  obtain ⟨hh, he⟩ | ⟨hh, p, -, he⟩ | ⟨hh, -, he⟩ := stepCursor_cases s <;> simp [he, hh]

@[simp] theorem atBoundary_emitHalfBit (b : Bool) (s : State) : AtBoundary (emitHalfBit b s) ↔ AtBoundary s := .rfl

/-- What ADVANCE never writes (42 R160). -/
theorem advanceHalfBit_unwritten {s t : State} (h : advanceHalfBit s = .next t) :
    t.cfg = s.cfg ∧ t.inputs = s.inputs ∧ t.ost = s.ost ∧ t.pend.frame = s.pend.frame := by
  obtain ⟨-, b, -, rfl⟩ := advanceHalfBit_next h
  simp

/-- ADVANCE writes `CUR` and the slot only in a handoff, and `CUR` only with a packet waiting (42 R160, R161). -/
theorem advanceHalfBit_frame {s t : State} (h : advanceHalfBit s = .next t) :
    (t.cur ≠ s.cur → AtBoundary s ∧ s.pend.valid = true) ∧ (t.pend ≠ s.pend → AtBoundary s) := by
  obtain ⟨-, b, -, rfl⟩ := advanceHalfBit_next h
  by_cases hb : AtBoundary s
  · refine ⟨fun hne => ⟨hb, ?_⟩, fun _ => hb⟩
    by_contra hv
    exact hne (stepCursor_of_empty (s := emitHalfBit b s) (by simpa using hv)).1
  · obtain ⟨hcur, hpend, -⟩ := stepCursor_of_not_atBoundary (s := emitHalfBit b s) hb
    exact ⟨fun hne => absurd hcur hne, fun hne => absurd hpend hne⟩

end Machine

/-- The rows of 30 R92, by strobe. -/
theorem selects_ctl (x : PortSample) : resetRow.selects x.ctl = x.rst ∧
    advanceRow.selects x.ctl = (!x.rst && x.adv) ∧ offerRow.selects x.ctl = (!x.rst && x.off) := by
  have h : ∀ r a o : Bool, resetRow.selects (BitVec.ofBool r ++ BitVec.ofBool a ++ BitVec.ofBool o) = r ∧
      advanceRow.selects (BitVec.ofBool r ++ BitVec.ofBool a ++ BitVec.ofBool o) = (!r && a) ∧
      offerRow.selects (BitVec.ofBool r ++ BitVec.ofBool a ++ BitVec.ofBool o) = (!r && o) := by decide
  exact h x.rst x.adv x.off

/-- The operation of a sample, by its strobes in the order of priority (30 R93). -/
theorem decodeSample_eq (x : PortSample) : decodeSample x =
    if x.rst then .reset
    else if x.adv then .advance (if x.off then some x.desc else none)
    else if x.off then .offer x.desc
    else .nop := by
  obtain ⟨hr, ha, ho⟩ := selects_ctl x
  rw [decodeSample, decodeCtl, hr, ha, ho]
  cases x.rst <;> simp

/-- Settles O37, by what each kind of operation writes. -/
theorem noOperationWritesTheConfiguration : Obligations.NoOperationWritesTheConfiguration := by
  intro i s t h
  cases hi : i.isPacket with
  | true =>
    obtain ⟨r, he⟩ := exec_packet hi s
    rw [he] at h
    cases h
    exact ⟨rfl, rfl⟩
  | false =>
    obtain ⟨-, rfl⟩ | ⟨-, ha⟩ | ⟨d, u, -, ha, rfl⟩ | ⟨d, -, rfl⟩ | ⟨F, -, -, rfl⟩ := exec_port_next hi h
    · exact ⟨rfl, rfl⟩
    · obtain ⟨hcfg, hinputs, -⟩ := advanceHalfBit_unwritten ha
      exact ⟨hcfg, hinputs⟩
    · obtain ⟨hcfg, hinputs, -⟩ := advanceHalfBit_unwritten ha
      exact ⟨hcfg, hinputs⟩
    · exact ⟨rfl, rfl⟩
    · exact ⟨rfl, rfl⟩

/-- An edge that samples `x` performs the operation of `x` (30 R92). -/
theorem exec_of_step_next {s t : State} {x : PortSample} {rest : List PortSample} (hin : s.inputs = x :: rest)
    (h : step s = .next t) : exec (decodeSample x) (s.setInputs rest) = .next t := by
  have hx : fetch s = decodeSample x := by simp [fetch, nextSample, hin]
  have hc : consumeSample s = s.setInputs rest := by simp [consumeSample, hin]
  unfold step at h
  split at h
  · rwa [hx, hc] at h
  · cases h

/-- An edge without RESET, strobe by strobe: an ADVANCE or none, and then an OFFER or none (30 R93; 42 R164). -/
theorem step_next_of_not_rst {s t : State} {x : PortSample} {rest : List PortSample} (hin : s.inputs = x :: rest)
    (hr : x.rst = false) (h : step s = .next t) :
    ∃ u, (if x.adv then advanceHalfBit (s.setInputs rest) = .next u else u = s.setInputs rest) ∧
      t = if x.off then offerDesc x.desc u else u := by
  have he := exec_of_step_next hin h
  rw [decodeSample_eq, hr] at he
  cases ha : x.adv with
  | true =>
    cases ho : x.off with
    | true =>
      simp only [ha, ho] at he
      obtain ⟨hi, -⟩ | ⟨hi, -⟩ | ⟨d, u, hi, hu, rfl⟩ | ⟨d, hi, -⟩ | ⟨F, hi, -⟩ := exec_port_next rfl he
      all_goals cases hi
      exact ⟨u, hu, rfl⟩
    | false =>
      simp only [ha, ho] at he
      obtain ⟨hi, -⟩ | ⟨-, hu⟩ | ⟨d, u, hi, -⟩ | ⟨d, hi, -⟩ | ⟨F, hi, -⟩ := exec_port_next rfl he
      case inr.inl => exact ⟨t, hu, rfl⟩
      all_goals cases hi
  | false =>
    cases ho : x.off with
    | true =>
      simp only [ha, ho] at he
      cases he
      exact ⟨_, rfl, rfl⟩
    | false =>
      simp only [ha, ho] at he
      cases he
      exact ⟨_, rfl, rfl⟩

/-- Settles O38: RESET may write everything, and otherwise an ADVANCE and then an OFFER write what is theirs. -/
theorem writersOfEachElement : Obligations.WritersOfEachElement := by
  intro s t x rest hin h
  cases hr : x.rst with
  | true => simp
  | false =>
    obtain ⟨u, hu, rfl⟩ := step_next_of_not_rst hin hr h
    have hadv : (u.cur ≠ s.cur → x.adv = true ∧ AtBoundary s ∧ s.pend.valid = true) ∧
        (u.phase ≠ s.phase ∨ u.half ≠ s.half ∨ u.pin ≠ s.pin ∨ u.dly ≠ s.dly → x.adv = true) ∧
        (u.pend ≠ s.pend → x.adv = true ∧ AtBoundary s) ∧ u.pend.frame = s.pend.frame ∧ u.ost = s.ost := by
      cases ha : x.adv with
      | true =>
        rw [ha] at hu
        obtain ⟨hcur, hpend⟩ := advanceHalfBit_frame hu
        obtain ⟨-, -, host, hframe⟩ := advanceHalfBit_unwritten hu
        exact ⟨fun hne => ⟨rfl, hcur hne⟩, fun _ => rfl, fun hne => ⟨rfl, hpend hne⟩, hframe, host⟩
      | false =>
        rw [ha] at hu
        cases hu
        simp
    obtain ⟨hcur, hcursor, hpend, hframe, host⟩ := hadv
    cases x.off with
    | true => exact ⟨fun hne => .inr (hcur hne), fun hne => .inr (hcursor hne), by simp, by simp, by simp⟩
    | false =>
      exact ⟨fun hne => .inr (hcur hne), fun hne => .inr (hcursor hne), fun hne => .inr (.inr (hpend hne)),
        fun hne => absurd hframe hne, fun hne => absurd host hne⟩

/-- Settles O44: the half-bit does not look at the slot, and the cursor step only at the boundary. -/
theorem waitingPacketIsInvisibleBeforeTheBoundary : Obligations.WaitingPacketIsInvisibleBeforeTheBoundary := by
  intro s p q hp hq
  obtain ⟨b, hb, hep⟩ := advanceHalfBit_of_inv hp
  obtain ⟨c, hc, heq⟩ := advanceHalfBit_of_inv hq
  have hbc : b = c := Option.some.inj (hb.symm.trans hc)
  subst hbc
  refine ⟨_, _, (exec_advance_none _).trans hep, (exec_advance_none _).trans heq, ?_, ?_, ?_, fun hnot => ?_⟩
  · simp
  · simp
  · rw [stepCursor_half, stepCursor_half]
    rfl
  · obtain ⟨-, hpend, hslot⟩ := stepCursor_of_not_atBoundary (s := emitHalfBit b s) hnot
    have hset : ∀ slot, stepCursor (emitHalfBit b (s.setPend slot)) = (stepCursor (emitHalfBit b s)).setPend slot :=
      hslot
    simp [hset]

/-! ## The cursor's registers, the ports and the reset values -/

namespace Machine

/-- The register fields that spell a phase: its kind, and the fields this kind uses (10 R31). -/
def CursorBits.Spells (c : CursorBits) : Phase → Prop
  | .pre k => c.kind.toNat = 0 ∧ c.cnt.toNat = k
  | .start => c.kind.toNat = 1
  | .data i b => c.kind.toNat = 2 ∧ c.idx = i ∧ c.bit.toNat = b
  | .sep i => c.kind.toNat = 3 ∧ c.idx = i
  | .endBit => c.kind.toNat = 4

theorem phaseOfBits_eq_some_iff (c : CursorBits) (ph : Phase) : phaseOfBits c = some ph ↔ c.Spells ph := by
  unfold phaseOfBits
  split
  case h_6 h0 h1 h2 h3 h4 =>
    refine iff_of_false nofun ?_
    cases ph with
    | pre k => rintro ⟨h, -⟩; exact h0 h
    | start => exact h1
    | data i b => rintro ⟨h, -⟩; exact h2 h
    | sep i => rintro ⟨h, -⟩; exact h3 h
    | endBit => exact h4
  all_goals next hkind => cases ph <;> simp [CursorBits.Spells, hkind]

theorem phaseOfBits_eq_none_iff (c : CursorBits) : phaseOfBits c = none ↔ 5 ≤ c.kind.toNat := by
  unfold phaseOfBits
  split
  case h_6 h0 h1 h2 h3 h4 =>
    have h5 : ∀ n : Nat, n ≠ 0 → n ≠ 1 → n ≠ 2 → n ≠ 3 → n ≠ 4 → 5 ≤ n := by omega
    exact iff_of_true rfl (h5 _ h0 h1 h2 h3 h4)
  all_goals next hkind => simp [hkind]

/-- The registers written for a phase in range spell it, whatever the unused fields hold. -/
theorem spells_bitsOfPhase {p : Params} {F : Frame} {ph : Phase} (unused : CursorBits) (hl : legal p = true)
    (h : phaseOk p F ph = true) : (bitsOfPhase unused ph).Spells ph := by
  cases ph with
  | pre k =>
    have hpre := preLen_of_legal hl F.cls
    simp only [phaseOk, Bool.and_eq_true, decide_eq_true_eq] at h
    exact ⟨rfl, Nat.mod_eq_of_lt (by omega)⟩
  | data i b =>
    simp only [phaseOk, Bool.and_eq_true, decide_eq_true_eq] at h
    exact ⟨rfl, rfl, Nat.mod_eq_of_lt (by omega)⟩
  | start => rfl
  | sep i => exact ⟨rfl, rfl⟩
  | endBit => rfl

/-- Registers that agree on the fields their kind uses spell the same phases. -/
theorem spells_congr {c c' : CursorBits} (hkind : c.kind = c'.kind) (hcnt : c.kind.toNat = 0 → c.cnt = c'.cnt)
    (hdata : c.kind.toNat = 2 → c.idx = c'.idx ∧ c.bit = c'.bit) (hsep : c.kind.toNat = 3 → c.idx = c'.idx)
    (ph : Phase) : c.Spells ph ↔ c'.Spells ph := by
  cases ph with
  | pre k => simp only [CursorBits.Spells, ← hkind]; exact and_congr_right fun h => by rw [hcnt h]
  | start => simp only [CursorBits.Spells, hkind]
  | data i b =>
    simp only [CursorBits.Spells, ← hkind]
    refine and_congr_right fun h => ?_
    obtain ⟨hidx, hbit⟩ := hdata h
    rw [hidx, hbit]
  | sep i => simp only [CursorBits.Spells, ← hkind]; exact and_congr_right fun h => by rw [hsep h]
  | endBit => simp only [CursorBits.Spells, hkind]

/-- The reserved codes have no status (10 R28). -/
theorem OfferStatus.code_lt (o : OfferStatus) : o.code.toNat < 5 := by
  cases o <;> decide

end Machine

/-- Settles O8, from `phaseOk` inside `Inv` and the fields that spell each phase. -/
theorem cursorRegistersSpellThePhase : Obligations.CursorRegistersSpellThePhase := by
  refine ⟨fun s h => ?_, fun c k i b => ?_, fun p F ph unused hl h => ?_, fun c => ?_, fun c c' hk h0 h2 h3 => ?_⟩
  · obtain ⟨-, -, hph, -⟩ := (inv_iff s).1 h
    obtain ⟨hlen, -⟩ := cur_of_inv h
    refine ⟨fun k hk => ?_, fun i b hd => ?_, fun i hi => ?_⟩
    · simpa [hk, phaseOk] using hph
    · simp only [hd, phaseOk, Bool.and_eq_true, decide_eq_true_eq] at hph
      omega
    · simp only [hi, phaseOk, decide_eq_true_eq] at hph
      omega
  · exact ⟨phaseOfBits_eq_some_iff c _, phaseOfBits_eq_some_iff c _, phaseOfBits_eq_some_iff c _,
      phaseOfBits_eq_some_iff c _, phaseOfBits_eq_some_iff c _⟩
  · exact (phaseOfBits_eq_some_iff _ ph).2 (spells_bitsOfPhase unused hl h)
  · exact (phaseOfBits_eq_none_iff c).symm
  · ext ph
    rw [phaseOfBits_eq_some_iff, phaseOfBits_eq_some_iff, spells_congr hk h0 h2 h3]

/-- Settles O31: the ports are the elements they show (10 R39). -/
theorem offerStatusCodes : Obligations.OfferStatusCodes :=
  ⟨rfl, rfl, rfl, rfl, rfl, fun s => ⟨OfferStatus.code_lt s.ost, rfl, rfl, rfl, rfl⟩⟩

/-- `State.reset` is RESET of itself, up to the bytes past the frame's own and the content of the empty slot. -/
theorem resetBlock_reset_sameButUnread :
    SameButUnread (resetBlock (frameOf 5 [0xFF, 0x00, 0xFF] .ops) State.reset) State.reset := by
  rw [resetBlock_eq]
  exact ⟨rfl, ⟨rfl, frameOf_sent 5 _ .ops, rfl⟩, rfl, rfl, rfl, nofun, rfl, rfl, rfl, rfl⟩

/-- Settles O33: the default `INIT_DESC` builds the IDLE frame. -/
theorem resetValuesAtTheDefaults : Obligations.ResetValuesAtTheDefaults :=
  ⟨⟨_, rfl, resetBlock_reset_sameButUnread⟩, ⟨rfl, rfl, rfl⟩, rfl, rfl, rfl, rfl, rfl, rfl, rfl⟩

end Sys2Proof

/-! # Proofs for 20_memory.md

The rest of the current frame, as a count of ADVANCEs and as the half-bits they emit; the ADVANCEs up to the boundary;
and the edges beside them. -/

namespace Sys2Proof.Machine

/-! ## The ADVANCEs left in a frame -/

/-- In every phase a bit is due. -/
theorem bitsLeft_pos (F : Frame) (ph : Phase) : 1 ≤ bitsLeft F ph := by
  cases ph <;> simp only [bitsLeft] <;> omega

/-- Only the end bit is the last one (41 R145). -/
theorem bitsLeft_eq_one_iff {p : Params} {F : Frame} {ph : Phase} (hlen : 2 ≤ F.len)
    (h : phaseOk p F ph = true) : bitsLeft F ph = 1 ↔ ph = .endBit := by
  cases ph with
  | sep i =>
    simp only [phaseOk, decide_eq_true_eq] at h
    simp only [bitsLeft, reduceCtorEq, iff_false]
    omega
  | endBit => simp [bitsLeft]
  | pre k => simp only [bitsLeft, reduceCtorEq, iff_false]; omega
  | start => simp only [bitsLeft, reduceCtorEq, iff_false]; omega
  | data i b => simp [bitsLeft]

/-- The next phase has one bit less to come (41 R145). -/
theorem bitsLeft_nextPhase {p : Params} {F : Frame} {ph ph' : Phase} (hlen : 2 ≤ F.len)
    (h : phaseOk p F ph = true) (hn : nextPhase F ph = some ph') : bitsLeft F ph = bitsLeft F ph' + 1 := by
  cases ph with
  | pre k =>
    simp only [phaseOk, Bool.and_eq_true, decide_eq_true_eq] at h
    simp only [nextPhase] at hn
    split at hn <;> cases hn <;> simp only [bitsLeft] <;> omega
  | start =>
    cases hn
    simp only [bitsLeft]
    omega
  | data i b =>
    simp only [phaseOk, Bool.and_eq_true, decide_eq_true_eq] at h
    simp only [nextPhase] at hn
    split at hn
    · cases hn
      simp only [bitsLeft]
      omega
    · split at hn <;> cases hn <;> simp only [bitsLeft] <;> omega
  | sep i =>
    simp only [phaseOk, decide_eq_true_eq] at h
    cases hn
    simp only [bitsLeft]
    omega
  | endBit => cases hn

theorem halfBitsLeft_pos (s : State) : 1 ≤ halfBitsLeft s := by
  have hpos := bitsLeft_pos s.cur s.phase
  unfold halfBitsLeft
  cases s.half <;> simp only <;> omega

/-- Inside `Inv` the boundary is where one ADVANCE is left (20 R62). -/
theorem halfBitsLeft_eq_one_iff {s : State} (h : inv s = true) : halfBitsLeft s = 1 ↔ AtBoundary s := by
  obtain ⟨-, -, hph, -⟩ := (inv_iff s).1 h
  unfold halfBitsLeft AtBoundary
  rw [← bitsLeft_eq_one_iff (cur_of_inv h).1 hph]
  cases s.half with
  | h1 => simp only [reduceCtorEq, and_false, iff_false]; omega
  | h2 => simp only [and_true]; omega

/-! ## The half-bits left in a frame -/

/-- The bits of a byte from bit `b` down to bit 0, in transmission order (41 R141). -/
def bitsDown (x : Byte) : Nat → List Bool
  | 0 => [x.getLsbD 0]
  | b + 1 => x.getLsbD (b + 1) :: bitsDown x b

/-- What follows a byte on the wire, given the bytes after it: a separator and those bytes if there are any, and the end
bit (30 R70). -/
def bitsAfterByte : List Byte → List Bool
  | [] => [true]
  | x :: rest => false :: bodyBits (x :: rest) ++ [true]

/-- The logical bits of a frame from a phase on, the current one included (30 R70; 41 R145). -/
def bitsFrom (F : Frame) : Phase → List Bool
  | .pre k => List.replicate k true ++ false :: bodyBits F.sent ++ [true]
  | .start => false :: bodyBits F.sent ++ [true]
  | .data i b => bitsDown (F.sent.getD i 0) b ++ bitsAfterByte (F.sent.drop (i + 1))
  | .sep i => bitsAfterByte (F.sent.drop (i + 1))
  | .endBit => [true]

/-- From the start of its preamble a frame has all its bits to come. -/
theorem bitsFrom_preLen (p : Params) (F : Frame) : bitsFrom F (.pre (preLen p F.cls)) = wireBits p F := rfl

/-- The bytes from byte `i` on begin with its eight bits, bit 7 first. -/
theorem bodyBits_drop {l : List Byte} {i : Nat} (h : i < l.length) :
    bodyBits (l.drop i) ++ [true] = bitsDown (l.getD i 0) 7 ++ bitsAfterByte (l.drop (i + 1)) := by
  have hbody : ∀ x r, bodyBits (x :: r) ++ [true] = bitsDown x 7 ++ bitsAfterByte r := fun x r => by
    cases r <;> simp [bodyBits, bitsAfterByte, byteBits, bitsDown]
  rw [List.drop_eq_getElem_cons h, hbody, List.getD_eq_getElem _ _ h]

/-- A separator comes before every byte but the first. -/
theorem bitsAfterByte_drop {l : List Byte} {i : Nat} (h : i < l.length) :
    bitsAfterByte (l.drop i) = false :: bodyBits (l.drop i) ++ [true] := by
  rw [List.drop_eq_getElem_cons h]
  rfl

/-- The bit due is the first of those left, and `NextPhase` has the others (41 R142, R145). -/
theorem bitsFrom_eq_cons {p : Params} {F : Frame} {ph : Phase} {b : Bool} (hlen : 2 ≤ F.len)
    (hreg : F.len ≤ F.bytes.length) (h : phaseOk p F ph = true) (hb : bitAt F ph = some b) :
    bitsFrom F ph = b :: (nextPhase F ph).elim [] (bitsFrom F) := by
  have hsent := Frame.sent_length hreg
  cases ph with
  | pre k =>
    cases hb
    simp only [phaseOk, Bool.and_eq_true, decide_eq_true_eq] at h
    obtain ⟨k, rfl⟩ : ∃ j, k = j + 1 := ⟨k - 1, by omega⟩
    cases k <;> rfl
  | start =>
    cases hb
    have := bodyBits_drop (l := F.sent) (i := 0) (by omega)
    simpa [bitsFrom, nextPhase] using this
  | data i b =>
    simp only [phaseOk, Bool.and_eq_true, decide_eq_true_eq] at h
    have hi : i < F.sent.length := by omega
    rw [bitAt, frameByte_eq, List.getElem?_eq_getElem hi] at hb
    cases hb
    rw [bitsFrom, List.getD_eq_getElem _ _ hi]
    cases b with
    | succ b => simp [nextPhase, bitsFrom, bitsDown, List.getElem?_eq_getElem hi]
    | zero =>
      by_cases hlast : i < F.len - 1
      · simp [nextPhase, bitsFrom, bitsDown, hlast]
      · have hnil : F.sent.drop (i + 1) = [] := List.drop_eq_nil_of_le (by omega)
        simp [nextPhase, bitsFrom, bitsDown, hlast, hnil, bitsAfterByte]
  | sep i =>
    cases hb
    simp only [phaseOk, decide_eq_true_eq] at h
    have hi : i + 1 < F.sent.length := by omega
    rw [bitsFrom, bitsAfterByte_drop hi, List.cons_append, bodyBits_drop hi]
    rfl
  | endBit =>
    cases hb
    rfl

/-- The `(pin, dly)` pairs of the ADVANCEs up to and including the next handoff. -/
def pulsesLeft (s : State) : List (Bool × Micros) :=
  match s.half with
  | .h1 => (bitsFrom s.cur s.phase).flatMap (bitPulses s.cfg)
  | .h2 => ((bitsFrom s.cur s.phase).flatMap (bitPulses s.cfg)).tail

/-- From the start of a frame all its half-bits are left (41 R147). -/
theorem left_of_atFrameStart {s : State} (h : AtFrameStart s) :
    halfBitsLeft s = halfBits s.cfg s.cur ∧ pulsesLeft s = pulseTrain s.cfg s.cur := by
  obtain ⟨hphase, hhalf⟩ := h
  simp only [halfBitsLeft, pulsesLeft, hphase, hhalf]
  exact ⟨rfl, rfl⟩

/-! ## The ADVANCEs up to the boundary -/

/-- The state after the ADVANCE of the next handoff: the next frame at its start, the slot empty, and on the pin and the
delay the second half of the end bit (42 R161). -/
def afterBoundary (s : State) : State := { s with
  cur := nextFrame s
  phase := .pre (preLen s.cfg (nextFrame s).cls)
  half := .h1
  pend := s.pend.clear
  pin := false
  dly := s.cfg.tOneUs }

theorem atFrameStart_afterBoundary (s : State) : AtFrameStart (afterBoundary s) := ⟨rfl, rfl⟩

/-- The boundary leaves a safe state. -/
theorem safe_afterBoundary {s : State} (hs : Safe s) : Safe (afterBoundary s) := by
  obtain ⟨⟨-, hrp⟩, -⟩ := (inv_iff s).1 hs.2
  obtain ⟨hrn, hn⟩ := nextFrame_fits hs.2
  exact ⟨hs.1, (inv_iff _).2 ⟨⟨hrn, hrp⟩, hn, phaseOk_pre_preLen hs.1 _, nofun, rfl, .inr (.inl rfl)⟩⟩

/-- The ADVANCE at the boundary (42 R161). -/
theorem advance_atBoundary {s : State} (h : inv s = true) (hb : AtBoundary s) :
    advanceHalfBit s = .next (afterBoundary s) ∧ pulsesLeft s = [(false, s.cfg.tOneUs)] := by
  obtain ⟨hphase, hhalf⟩ := hb
  obtain ⟨b, hbit, he⟩ := advanceHalfBit_of_inv h
  rw [hphase] at hbit
  cases hbit
  have hstep : stepCursor (emitHalfBit true s) = handoff ((emitHalfBit true s).setHalf .h1) := by
    simp [stepCursor, hphase, hhalf, nextPhase]
  constructor
  · rw [he, hstep, handoff_eq]
    simp [afterBoundary, emitHalfBit, State.setHalf, State.setPin, State.setDly, nextFrame, hhalf, level, dur]
  · simp [pulsesLeft, hphase, hhalf, bitsFrom, bitPulses, dur]

/-- Inside `Inv` every ADVANCE completes (60 R192). -/
theorem advance_completes {s : State} (h : inv s = true) : ∃ t, advanceHalfBit s = .next t := by
  obtain ⟨b, -, he⟩ := advanceHalfBit_of_inv h
  exact ⟨_, he⟩

/-- An ADVANCE before the boundary emits one half-bit of the frame and moves the cursor, and no more (20 R59). -/
theorem advance_within {s t : State} (he : advanceHalfBit s = .next t) (hb : ¬ AtBoundary s) :
    inv t = true ∧ t.cur = s.cur ∧ t.pend = s.pend ∧ halfBitsLeft s = halfBitsLeft t + 1 ∧
      afterBoundary t = afterBoundary s ∧ pulsesLeft s = (t.pin, t.dly) :: pulsesLeft t := by
  obtain ⟨h, b, hbit, rfl⟩ := advanceHalfBit_next he
  obtain ⟨⟨hrc, hrp⟩, hc, hph, hv, -, -⟩ := (inv_iff s).1 h
  obtain ⟨hlen, hreg⟩ := cur_of_inv h
  have hbits := bitsFrom_eq_cons hlen hreg hph hbit
  have hd : dur s.cfg b = 0 ∨ dur s.cfg b = s.cfg.tOneUs ∨ dur s.cfg b = s.cfg.tZeroUs := .inr (dur_cases _ b)
  obtain ⟨hh, hst⟩ | ⟨hh, ph, hn, hst⟩ | ⟨hh, hn, -⟩ := stepCursor_cases (emitHalfBit b s)
  · rw [emitHalfBit_half] at hh
    have hpos := bitsLeft_pos s.cur s.phase
    rw [hst]
    refine ⟨(inv_iff _).2 ⟨⟨hrc, hrp⟩, hc, hph, hv, by simp [hh, level], hd⟩, rfl, rfl, ?_, rfl, ?_⟩
    · simp only [halfBitsLeft, hh, State.setHalf_half, State.setHalf_cur, State.setHalf_phase, emitHalfBit_cur,
        emitHalfBit_phase]
      omega
    · simp [pulsesLeft, hh, hbits, bitPulses, level]
  · rw [emitHalfBit_half] at hh
    rw [emitHalfBit_cur, emitHalfBit_phase] at hn
    have hleft := bitsLeft_nextPhase hlen hph hn
    rw [hst]
    refine ⟨(inv_iff _).2 ⟨⟨hrc, hrp⟩, hc, phaseOk_nextPhase hlen hph hn, hv, by simp [hh, level], hd⟩,
      rfl, rfl, ?_, rfl, ?_⟩
    · simp only [halfBitsLeft, hh, hleft, State.setPhase_half, State.setPhase_cur, State.setPhase_phase,
        State.setHalf_half, State.setHalf_cur, emitHalfBit_cur]
      omega
    · simp [pulsesLeft, hh, hbits, hn, bitPulses, level]
  · exact absurd ⟨(nextPhase_eq_none_iff _ _).1 hn, hh⟩ hb

/-- One more ADVANCE of a run. -/
theorem runAdvances_succ {s t : State} (h : advanceHalfBit s = .next t) (n : Nat) :
    runAdvances (n + 1) s = (runAdvances n t).map fun r => (r.1, (t.pin, t.dly) :: r.2) := by
  simp only [runAdvances, exec_advance_none, h]

/-- The rest of the frame is emitted, and the boundary is passed, in exactly `halfBitsLeft` ADVANCEs (41 R148; 42 R161). -/
theorem runAdvances_halfBitsLeft {s : State} (h : inv s = true) :
    runAdvances (halfBitsLeft s) s = some (afterBoundary s, pulsesLeft s) := by
  generalize hn : halfBitsLeft s = n
  induction n generalizing s with
  | zero =>
    have hpos := halfBitsLeft_pos s
    omega
  | succ n ih =>
    by_cases hb : AtBoundary s
    · obtain ⟨he, hp⟩ := advance_atBoundary h hb
      have hone := (halfBitsLeft_eq_one_iff h).2 hb
      obtain rfl : n = 0 := by omega
      rw [runAdvances_succ he, hp]
      rfl
    · obtain ⟨t, he⟩ := advance_completes h
      obtain ⟨ht, -, -, hleft, hafter, hp⟩ := advance_within he hb
      rw [runAdvances_succ he, ih ht (by omega), Option.map_some, hafter, hp]

/-- From the start of a frame `HalfBits` ADVANCEs emit it whole (41 R147, R148; 30 R70). -/
theorem runAdvances_halfBits {s : State} (h : inv s = true) (hstart : AtFrameStart s) :
    runAdvances (halfBits s.cfg s.cur) s = some (afterBoundary s, pulseTrain s.cfg s.cur) := by
  obtain ⟨hn, hp⟩ := left_of_atFrameStart hstart
  rw [← hn, ← hp, runAdvances_halfBitsLeft h]

/-! ## What an OFFER that was taken leaves to the handoff -/

/-- An OFFER that reports ACCEPTED or REPLACED has put the frame it built into the slot (42 R162). -/
theorem offerBuilt_taken {r : Built} {s : State}
    (h : (offerBuilt r s).ost = .accepted ∨ (offerBuilt r s).ost = .replaced) :
    ∃ F, r = .ok F ∧ (offerBuilt r s).pend = ⟨true, F⟩ := by
  cases r with
  | outOfRange _ => simp [offerStatus] at h
  | ok F =>
    obtain ⟨hempty, hover, hrej⟩ := leavesOffer_offerBuilt F s
    refine ⟨F, rfl, ?_⟩
    cases hv : s.pend.valid with
    | false => rw [hempty hv]
    | true =>
      cases hp : s.cfg.mboxPolicy with
      | overwrite => rw [hover hv hp]
      | reject => simp [hrej hv hp] at h

/-- The handoff sends the waiting frame (42 R161). -/
theorem nextFrame_of_pend {s : State} {F : Frame} (h : s.pend = ⟨true, F⟩) : nextFrame s = F := by
  simp [nextFrame, h]

/-! ## The engine beside NOP cycles and OFFERs -/

/-- Two states whose engines are alike: the same frame under the same cursor. The slot, the ports and the samples to come
may differ. -/
def SameEngine (s u : State) : Prop := s.cfg = u.cfg ∧ s.cur = u.cur ∧ s.phase = u.phase ∧ s.half = u.half

theorem SameEngine.refl (s : State) : SameEngine s s := ⟨rfl, rfl, rfl, rfl⟩

theorem SameEngine.trans {s t u : State} (h : SameEngine s t) (h' : SameEngine t u) : SameEngine s u := by
  obtain ⟨hcfg, hcur, hphase, hhalf⟩ := h
  obtain ⟨hcfg', hcur', hphase', hhalf'⟩ := h'
  exact ⟨hcfg.trans hcfg', hcur.trans hcur', hphase.trans hphase', hhalf.trans hhalf'⟩

/-- Like engines emit the same half-bit, and before the boundary they stay alike (20 R59, R63). -/
theorem SameEngine.advance {s u : State} (h : SameEngine s u) (hs : inv s = true) (hu : inv u = true) :
    ∃ t v, advanceHalfBit s = .next t ∧ advanceHalfBit u = .next v ∧ t.pin = v.pin ∧ t.dly = v.dly ∧
      (¬ AtBoundary s → SameEngine t v) := by
  obtain ⟨hcfg, hcur, hphase, hhalf⟩ := h
  obtain ⟨b, hb, hes⟩ := advanceHalfBit_of_inv hs
  obtain ⟨c, hc, heu⟩ := advanceHalfBit_of_inv hu
  obtain rfl : b = c := by
    rw [hcur, hphase, hc] at hb
    exact (Option.some.inj hb).symm
  refine ⟨_, _, hes, heu, by simp [hhalf], by simp [hcfg], fun hnot => ?_⟩
  unfold stepCursor
  simp only [emitHalfBit_half, emitHalfBit_cur, emitHalfBit_phase, ← hhalf, ← hcur, ← hphase]
  cases hh : s.half with
  | h1 => exact ⟨hcfg, hcur, hphase, rfl⟩
  | h2 =>
    cases hn : nextPhase s.cur s.phase with
    | some p => exact ⟨hcfg, hcur, rfl, rfl⟩
    | none => exact absurd ⟨(nextPhase_eq_none_iff _ _).1 hn, hh⟩ hnot

/-- The OFFER of a sample, where its strobe is high. -/
def offerSample (x : PortSample) (s : State) : State := if x.off then offerDesc x.desc s else s

theorem safe_offerSample {s : State} (hs : Safe s) (x : PortSample) : Safe (offerSample x s) := by
  unfold offerSample
  split
  · exact hs.offerDesc x.desc
  · exact hs

/-- An OFFER does not reach the engine (20 R59). -/
theorem sameEngine_offerSample (x : PortSample) (s : State) : SameEngine (offerSample x s) s := by
  unfold offerSample
  split
  · exact ⟨rfl, rfl, rfl, rfl⟩
  · exact .refl s

theorem SameEngine.halfBitsLeft_eq {s u : State} (h : SameEngine s u) : halfBitsLeft s = halfBitsLeft u := by
  obtain ⟨-, hcur, hphase, hhalf⟩ := h
  simp only [halfBitsLeft, hcur, hphase, hhalf]

/-- ADVANCE does not look at the samples to come. -/
theorem advanceHalfBit_setInputs {s t : State} (h : advanceHalfBit s = .next t) (l : List PortSample) :
    advanceHalfBit (s.setInputs l) = .next (t.setInputs l) := by
  obtain ⟨hi, b, hb, rfl⟩ := advanceHalfBit_next h
  simp [advanceHalfBit, hi, hb]

/-- The edge at the head of a list of samples: what it fetches, and what it performs (30 R92). -/
theorem step_setInputs_cons {s : State} (hl : legal s.cfg = true) (x : PortSample) (l : List PortSample) :
    fetch (s.setInputs (x :: l)) = decodeSample x ∧
    step (s.setInputs (x :: l)) = exec (decodeSample x) (s.setInputs l) := ⟨rfl, step_of_legal hl⟩

/-- An observed edge with `adv` high: the half-bit is seen, and the OFFER of the same edge, if any, follows (42 R164). -/
theorem observe_advance {s t : State} (hl : legal s.cfg = true) {x : PortSample} (hr : x.rst = false)
    (ha : x.adv = true) (h : advanceHalfBit s = .next t) (l : List PortSample) (n : Nat) :
    observe (n + 1) (s.setInputs (x :: l)) =
      (observe n ((offerSample x t).setInputs l)).map fun r => (r.1, (t.pin, t.dly) :: r.2) := by
  obtain ⟨hfetch, hstep⟩ := step_setInputs_cons hl x l
  have hadv := advanceHalfBit_setInputs h l
  rw [decodeSample_eq, hr, ha] at hfetch hstep
  cases ho : x.off with
  | true =>
    simp only [ho] at hfetch hstep
    have hnext := hstep.trans (exec_advance_some hadv x.desc)
    rw [observe_succ hnext, hfetch]
    simp [offerSample, ho, seenAtEdge, offerDesc_eq]
  | false =>
    simp only [ho] at hfetch hstep
    have hnext := hstep.trans ((exec_advance_none _).trans hadv)
    rw [observe_succ hnext, hfetch]
    simp [offerSample, ho, seenAtEdge]

/-- An observed edge with `rst` and `adv` low: nothing is seen of it. -/
theorem observe_no_advance {s : State} (hl : legal s.cfg = true) {x : PortSample} (hr : x.rst = false)
    (ha : x.adv = false) (l : List PortSample) (n : Nat) :
    observe (n + 1) (s.setInputs (x :: l)) = observe n ((offerSample x s).setInputs l) := by
  obtain ⟨hfetch, hstep⟩ := step_setInputs_cons hl x l
  rw [decodeSample_eq, hr, ha] at hfetch hstep
  cases ho : x.off with
  | true =>
    simp only [ho] at hfetch hstep
    rw [observe_succ hstep, hfetch]
    simp [offerSample, ho, seenAtEdge, offerDesc_eq]
  | false =>
    simp only [ho] at hfetch hstep
    rw [observe_succ hstep, hfetch]
    simp [offerSample, ho, seenAtEdge]

/-- Reset-free edges up to the boundary show what the ADVANCEs alone show from a state with a like engine, and before the
boundary the engines end alike. -/
theorem observe_eq_runAdvances (l : List PortSample) {s u : State} (hs : Safe s) (hu : Safe u) (h : SameEngine s u)
    (hr : ∀ x ∈ l, x.rst = false) (hn : l.countP (fun x => x.adv) ≤ halfBitsLeft s) :
    ∃ t v tr, observe l.length (s.setInputs l) = some (t, tr) ∧
      runAdvances (l.countP fun x => x.adv) u = some (v, tr) ∧
      (l.countP (fun x => x.adv) < halfBitsLeft s → SameEngine t v) := by
  induction l generalizing s u with
  | nil => exact ⟨_, _, [], rfl, rfl, fun _ => h⟩
  | cons x l ih =>
    obtain ⟨hrx, hrl⟩ := List.forall_mem_cons.1 hr
    cases ha : x.adv with
    | false =>
      have hoff := sameEngine_offerSample x s
      rw [List.countP_cons_of_neg (by simp [ha])] at hn ⊢
      rw [List.length_cons, observe_no_advance hs.1 hrx ha, ← hoff.halfBitsLeft_eq]
      exact ih (safe_offerSample hs x) hu (hoff.trans h) hrl (by rwa [hoff.halfBitsLeft_eq])
    | true =>
      obtain ⟨s', u', hs', hu', hpin, hdly, hsame⟩ := h.advance hs.2 hu.2
      have hoff := sameEngine_offerSample x s'
      have hsafe := safe_offerSample (hs.advanceHalfBit hs') x
      rw [List.countP_cons_of_pos (by simp [ha])] at hn ⊢
      rw [List.length_cons, observe_advance hs.1 hrx ha hs', runAdvances_succ hu']
      by_cases hb : AtBoundary s
      · -- No ADVANCE follows the one at the boundary: the rest of the list shows nothing.
        have hone := (halfBitsLeft_eq_one_iff hs.2).2 hb
        have hzero : l.countP (fun x => x.adv) = 0 := by omega
        obtain ⟨t, v, tr, ht, hv, -⟩ := ih hsafe hsafe (.refl _) hrl (by omega)
        rw [hzero] at hv ⊢
        cases hv
        exact ⟨t, u', [(s'.pin, s'.dly)], by rw [ht, Option.map_some], by rw [hpin, hdly]; rfl,
          fun hlt => by omega⟩
      · obtain ⟨-, -, -, hleft, -⟩ := advance_within hs' hb
        have hleft' := hoff.halfBitsLeft_eq
        obtain ⟨t, v, tr, ht, hv, htv⟩ :=
          ih hsafe (hu.advanceHalfBit hu') (hoff.trans (hsame hb)) hrl (by omega)
        exact ⟨t, v, (s'.pin, s'.dly) :: tr, by rw [ht, Option.map_some], by rw [hv, Option.map_some, hpin, hdly],
          fun hlt => htv (by omega)⟩

end Sys2Proof.Machine

namespace Sys2Proof

open Machine

/-- Settles O46, by induction on the number of ADVANCEs: each of them is one before the boundary. -/
theorem noHandoffBeforeTheBoundary : Obligations.NoHandoffBeforeTheBoundary := by
  intro s n
  induction n generalizing s with
  | zero =>
    intro h _
    exact ⟨s, [], rfl, rfl, rfl, rfl, (halfBitsLeft_eq_one_iff h).symm.trans eq_comm⟩
  | succ n ih =>
    intro h hn
    have hb : ¬ AtBoundary s := by
      rw [← halfBitsLeft_eq_one_iff h]
      omega
    obtain ⟨s', he⟩ := advance_completes h
    obtain ⟨hs', hcur, hpend, hleft, -⟩ := advance_within he hb
    obtain ⟨t, tr, hrun, htcur, htpend, htleft, htb⟩ := ih s' hs' (by omega)
    refine ⟨t, (s'.pin, s'.dly) :: tr, ?_, htcur.trans hcur, htpend.trans hpend, by omega, by rw [htb]; omega⟩
    rw [runAdvances_succ he, hrun, Option.map_some]

/-- Settles O45: the state is its own like engine. -/
theorem offersAndPausesDoNotDisturbTheFrame : Obligations.OffersAndPausesDoNotDisturbTheFrame := by
  intro s l hs hr hn
  obtain ⟨t, u, tr, ht, hu, hsame⟩ := observe_eq_runAdvances l hs hs (.refl s) hr hn
  refine ⟨t, u, tr, ht, hu, fun hlt => ?_⟩
  obtain ⟨-, hcur, hphase, hhalf⟩ := hsame hlt
  exact ⟨hcur, hphase, hhalf⟩

/-- Settles O50: the OFFER leaves the rest of the frame as it was, the boundary installs what it put into the slot, and
from there the frame is emitted whole. -/
theorem acceptedPacketIsSentWhole : Obligations.AcceptedPacketIsSentWhole := by
  intro s t d hs h host
  cases h
  have ht := hs.offerDesc d
  obtain ⟨F, hF, hpend⟩ := offerBuilt_taken host
  have hcur : (afterBoundary (offerDesc d s)).cur = F := nextFrame_of_pend hpend
  have hrest := runAdvances_halfBitsLeft ht.2
  have hwhole := runAdvances_halfBits (safe_afterBoundary ht).2 (atFrameStart_afterBoundary _)
  rw [hcur] at hwhole
  exact ⟨F, _, _, _, _, hF, runAdvances_halfBitsLeft hs.2, hrest, hcur, rfl, hwhole⟩

end Sys2Proof

/-! # Proofs for 30_encoding.md

The fields of a descriptor that the encoder wrote, the packet command a descriptor spells and the builder of that command,
the bytes of the frames by variant, the assembler's numbers, and the meanings of the control vector. -/

namespace Sys2Proof

/-! ## The fields of an encoded descriptor -/

@[simp] theorem descByte_cons_zero (b : Byte) (d : Desc) : descByte (b :: d) 0 = b := rfl

@[simp] theorem descByte_cons_succ (b : Byte) (d : Desc) (n : Nat) : descByte (b :: d) (n + 1) = descByte d n := rfl

/-- The zeros of the padding read as the wires that are not listed do (log entry 14). -/
@[simp] theorem descByte_padDesc (maxPayload : Nat) (used : Desc) (n : Nat) :
    descByte (padDesc maxPayload used) n = descByte used n := by
  simp only [descByte, padDesc, zeroDesc, List.getD_eq_getElem?_getD]
  by_cases h : n < used.length
  · rw [List.getElem?_append_left h]
  · rw [List.getElem?_append_right (by omega), List.getElem?_replicate, List.getElem?_eq_none (by omega)]
    split <;> rfl

@[simp] theorem bitByte_getElem_zero (b : Bool) : (bitByte b)[0] = b := by
  cases b <;> rfl

/-- The payload field of an SVC_MODE descriptor is the payload it was made of (30 R90). -/
theorem descPayload_cons_cons (tag len : Byte) {payload : List Byte} {n : Nat} (h : payload.length = n) :
    descPayload (tag :: len :: payload) n = payload := by
  refine List.ext_getElem (by rw [descPayload_length, h]) fun j _ hj => ?_
  simp [descPayload, descByte, Nat.add_comm 2 j, hj]

/-- The first bytes of the payload field, those of the descriptor's wires (30 R90). -/
theorem take_descPayload_congr {d e : Desc} {k : Nat} (n : Nat)
    (h : ∀ j, j < k → descByte d (2 + j) = descByte e (2 + j)) :
    (descPayload d n).take k = (descPayload e n).take k := by
  simp only [descPayload, ← List.map_take, List.take_range]
  refine List.map_congr_left fun j hj => h j ?_
  have := List.mem_range.1 hj
  omega

/-! ## The packet command of a descriptor -/

/-- A descriptor spells a packet command exactly when it is whole and has the command's tag and fields (30 R86 to R91). -/
theorem decodePacket_eq_ok_iff {maxPayload : Nat} {d : Desc} {i : Instr} :
    decodePacket maxPayload d = .ok i ↔
      d.length = descBytes maxPayload ∧
      ((descTag d = 0x00 ∧ i = .speedDir (descAddr d) (descSpeed d) (descDir d)) ∨
       (descTag d = 0x01 ∧ i = .idle) ∨
       (descTag d = 0x02 ∧ i = .dccReset) ∨
       (descTag d = 0x03 ∧ i = .bcastStop (descEmergency d)) ∨
       (descTag d = 0x04 ∧ i = .svcMode (descLen d) (descPayload d maxPayload))) := by
  refine ⟨decodePacket_ok, ?_⟩
  rintro ⟨hw, ⟨ht, rfl⟩ | ⟨ht, rfl⟩ | ⟨ht, rfl⟩ | ⟨ht, rfl⟩ | ⟨ht, rfl⟩⟩
  all_goals simp [decodePacket, descWellFormed, hw, ht]

/-- What a descriptor decodes to is a packet command with words at that width (30 R96). -/
theorem isPacket_of_decodePacket {maxPayload : Nat} {d : Desc} {i : Instr} (h : decodePacket maxPayload d = .ok i) :
    i.isPacket = true ∧ i.wellFormed maxPayload = true := by
  obtain ⟨-, ⟨-, rfl⟩ | ⟨-, rfl⟩ | ⟨-, rfl⟩ | ⟨-, rfl⟩ | ⟨-, rfl⟩⟩ := decodePacket_ok h
  · exact ⟨rfl, rfl⟩
  · exact ⟨rfl, rfl⟩
  · exact ⟨rfl, rfl⟩
  · exact ⟨rfl, rfl⟩
  · exact ⟨rfl, by simp [Instr.wellFormed]⟩

/-- The descriptor of a packet command decodes to it (30 R86 to R90). -/
theorem decodePacket_encodeDesc {maxPayload : Nat} {i : Instr} (h2 : 2 ≤ maxPayload) (hi : i.isPacket = true)
    (hw : i.wellFormed maxPayload = true) : decodePacket maxPayload (encodeDesc maxPayload i) = .ok i := by
  rw [decodePacket_eq_ok_iff]
  cases i with
  | speedDir addr speed dir =>
    refine ⟨Laws.EncodeWidth.speedDir addr speed dir _ h2 hw, .inl ?_⟩
    simp [encodeDesc, descTag, descAddr, descSpeed, descDir]
  | idle =>
    refine ⟨Laws.EncodeWidth.idle _ h2 hw, .inr (.inl ?_)⟩
    simp [encodeDesc, descTag]
  | dccReset =>
    refine ⟨Laws.EncodeWidth.dccReset _ h2 hw, .inr (.inr (.inl ?_))⟩
    simp [encodeDesc, descTag]
  | bcastStop emergency =>
    refine ⟨Laws.EncodeWidth.bcastStop emergency _ h2 hw, .inr (.inr (.inr (.inl ?_)))⟩
    simp [encodeDesc, descTag, descEmergency]
  | svcMode len payload =>
    have hlen : payload.length = maxPayload := by simpa [Instr.wellFormed] using hw
    refine ⟨Laws.EncodeWidth.svcMode len payload _ h2 hw, .inr (.inr (.inr (.inr ?_)))⟩
    simp [encodeDesc, descTag, descLen, descPayload_cons_cons _ _ hlen]
  | nop => cases hi
  | advance _ => cases hi
  | offer _ => cases hi
  | reset => cases hi

/-- The sample of a port operation decodes to it (30 R92, R93). -/
theorem decodeSample_encode {i : Instr} (maxPayload : Nat) (hi : i.isPacket = false) :
    decodeSample (encode maxPayload i) = i := by
  cases i with
  | nop => simp [encode, encodeCtl]
  | advance offered => cases offered <;> simp [encode, encodeCtl, encodeDesc]
  | offer d => simp [encode, encodeCtl, encodeDesc]
  | reset => exact (decodeSample_portSampleOf _ _).trans (decodeCtl_reset (by decide) _)
  | speedDir _ _ _ => cases hi
  | idle => cases hi
  | dccReset => cases hi
  | bcastStop _ => cases hi
  | svcMode _ _ => cases hi

theorem encodeCtl_of_isPacket {i : Instr} (hi : i.isPacket = true) : encodeCtl i = 0b001 := by
  cases i with
  | nop => cases hi
  | advance _ => cases hi
  | offer _ => cases hi
  | reset => cases hi
  | speedDir _ _ _ => rfl
  | idle => rfl
  | dccReset => rfl
  | bcastStop _ => rfl
  | svcMode _ _ => rfl

/-- Settles O4: a port operation by its control vector, a packet command by its tag and fields, under `ctl = 001`. -/
theorem decodeOfEncodeIsTheInstruction : Obligations.DecodeOfEncodeIsTheInstruction := by
  intro maxPayload i h2 hw
  refine ⟨decodeSample_encode maxPayload, fun hi => ⟨decodePacket_encodeDesc h2 hi hw, ?_⟩⟩
  simp [encode, encodeCtl_of_isPacket hi]

/-! ## The builder of a packet command -/

namespace Machine

/-! `Build` dispatches on the tag (40 R118). -/

section Dispatch
variable {d : Desc} (maxPayload : Nat)

theorem build_speedDir (h : descTag d = 0x00) :
    build maxPayload d = buildSpeedDir maxPayload (descAddr d) (descSpeed d) (descDir d) := by simp [build, h]

theorem build_idle (h : descTag d = 0x01) : build maxPayload d = buildIdle maxPayload := by simp [build, h]

theorem build_dccReset (h : descTag d = 0x02) : build maxPayload d = buildDccReset maxPayload := by simp [build, h]

theorem build_bcastStop (h : descTag d = 0x03) :
    build maxPayload d = buildBcastStop maxPayload (descEmergency d) := by simp [build, h]

theorem build_svcMode (h : descTag d = 0x04) :
    build maxPayload d = buildSvcMode maxPayload (descLen d) (descPayload d maxPayload) := by simp [build, h]

theorem build_reserved (h : 5 ≤ (descTag d).toNat) : build maxPayload d = buildReserved := by
  unfold build
  split
  case h_6 => rfl
  all_goals omega

end Dispatch

/-- What the builder of a packet command answers; a port operation has none (30 R96). -/
def builtBy (maxPayload : Nat) : Instr → Option Built
  | .nop | .advance _ | .offer _ | .reset => none
  | .speedDir addr speed dir => some (buildSpeedDir maxPayload addr speed dir)
  | .idle => some (buildIdle maxPayload)
  | .dccReset => some (buildDccReset maxPayload)
  | .bcastStop emergency => some (buildBcastStop maxPayload emergency)
  | .svcMode len payload => some (buildSvcMode maxPayload len payload)

/-- `Build` of a descriptor is what the builder of the command it spells answers (40 R118). -/
theorem builtBy_of_decodePacket {maxPayload : Nat} {d : Desc} {i : Instr} (h : decodePacket maxPayload d = .ok i) :
    builtBy maxPayload i = some (build maxPayload d) := by
  obtain ⟨-, ⟨ht, rfl⟩ | ⟨ht, rfl⟩ | ⟨ht, rfl⟩ | ⟨ht, rfl⟩ | ⟨ht, rfl⟩⟩ := decodePacket_ok h
  · rw [build_speedDir _ ht, builtBy]
  · rw [build_idle _ ht, builtBy]
  · rw [build_dccReset _ ht, builtBy]
  · rw [build_bcastStop _ ht, builtBy]
  · rw [build_svcMode _ ht, builtBy]

/-- The descriptor of a packet command builds what the command's builder answers (30 R86; 40 R118). -/
theorem builtBy_eq_build_encodeDesc {maxPayload : Nat} {i : Instr} (h2 : 2 ≤ maxPayload) (hi : i.isPacket = true)
    (hw : i.wellFormed maxPayload = true) : builtBy maxPayload i = some (build maxPayload (encodeDesc maxPayload i)) :=
  builtBy_of_decodePacket (decodePacket_encodeDesc h2 hi hw)

/-- A packet command is the OFFER of what its builder answers (42 R162; log entry 7). -/
theorem exec_of_builtBy {i : Instr} {s : State} {r : Built} (h : builtBy s.cfg.maxPayload i = some r) :
    exec i s = .next (offerBuilt r s) := by
  cases i with
  | nop => cases h
  | advance _ => cases h
  | offer _ => cases h
  | reset => cases h
  | speedDir _ _ _ => cases h; rfl
  | idle => cases h; rfl
  | dccReset => cases h; rfl
  | bcastStop _ => cases h; rfl
  | svcMode _ _ => cases h; rfl

/-- SVC_MODE reads the first `L` payload bytes only (30 R91; 40 R116). -/
theorem buildSvcMode_congr {payload payload' : List Byte} (maxPayload : Nat) {len : Byte}
    (h : payload.take len.toNat = payload'.take len.toNat) :
    buildSvcMode maxPayload len payload = buildSvcMode maxPayload len payload' := by
  simp only [buildSvcMode, h]

/-- A service-mode packet of one byte is that byte and its checksum, the same byte (40 R111, R116). -/
theorem buildSvcMode_one {maxPayload : Nat} (h : 1 ≤ maxPayload) (b : Byte) (unused : List Byte) :
    buildSvcMode maxPayload 1 (b :: unused) = .ok (frameOf maxPayload [b, b] .svc) := by
  simp [buildSvcMode, withChecksum, xsum, Nat.not_lt.2 h]

end Machine

open Machine

/-- Settles O5: both descriptors spell the command, so both build what its builder answers. -/
theorem reencodedDescriptorBuildsTheSame : Obligations.ReencodedDescriptorBuildsTheSame := by
  intro maxPayload d i h2 h
  obtain ⟨hi, hw⟩ := isPacket_of_decodePacket h
  exact Option.some.inj ((builtBy_eq_build_encodeDesc h2 hi hw).symm.trans (builtBy_of_decodePacket h))

/-- Settles O7: the OFFER and the command offer what the command's builder answers. -/
theorem offerRunsThePacketCommandItCarries : Obligations.OfferRunsThePacketCommandItCarries :=
  fun _ _ _ h => (exec_of_builtBy (builtBy_of_decodePacket h)).symm

/-- Settles O6, tag by tag: the builder of a tag is called with the fields it uses. -/
theorem ignoredDescriptorBitsDoNotMatter : Obligations.IgnoredDescriptorBitsDoNotMatter := by
  intro maxPayload d e hde
  refine ⟨fun h => ⟨_, build_reserved _ h⟩, fun h ha hs hd => ?_, fun h => ?_, fun h he => ?_, fun h hl hp => ?_⟩
  · rw [build_speedDir _ h, build_speedDir _ (hde.symm.trans h), ha, hs, hd]
  · obtain h | h := h
    · rw [build_idle _ h, build_idle _ (hde.symm.trans h)]
    · rw [build_dccReset _ h, build_dccReset _ (hde.symm.trans h)]
  · rw [build_bcastStop _ h, build_bcastStop _ (hde.symm.trans h), he]
  · rw [build_svcMode _ h, build_svcMode _ (hde.symm.trans h), ← hl]
    exact buildSvcMode_congr _ (take_descPayload_congr _ hp)

/-! ## The frames by variant -/

namespace Machine

/-- The bytes of a frame that the builder filled, in order (00 R12). -/
@[simp] theorem frameByte_frameOf (maxPayload : Nat) (sent : List Byte) (cls : FrameClass) (i : Nat) :
    frameByte (frameOf maxPayload sent cls) i = sent[i]? := by rw [frameByte_eq, frameOf_sent]

/-- The data byte of SPEED_DIR carries its direction and its speed field (30 R75). -/
@[simp] theorem readSpeedDataByte_speedDataByte (dir : Bool) (code : BitVec 5) :
    readSpeedDataByte (speedDataByte dir code) = (dir, code) := by
  have h : ∀ (dir : Bool) (code : BitVec 5), readSpeedDataByte (speedDataByte dir code) = (dir, code) := by decide
  exact h dir code

/-- No speed has the code of stop-(I) or of an emergency stop (30 R77, R84). -/
theorem speedCode_ne_reserved {n : Nat} (h : n ≤ 28) :
    speedCode n ≠ 0b00001 ∧ speedCode n ≠ 0b10000 ∧ speedCode n ≠ 0b10001 := by
  have hall : ∀ n < 29, speedCode n ≠ 0b00001 ∧ speedCode n ≠ 0b10000 ∧ speedCode n ≠ 0b10001 := by decide
  exact hall n (by omega)

/-- The data byte of BCAST_STOP carries the stop-(I) or the emergency-stop code (30 R80, R84). -/
theorem readSpeedDataByte_bcastDataByte (emergency : Bool) :
    (readSpeedDataByte (bcastDataByte emergency)).2 = if emergency then 0b10001 else 0b10000 := by
  cases emergency <;> decide

end Machine

/-- Settles O15, by the five frames the builder can answer. -/
theorem classAndLengthFollowTheVariant : Obligations.ClassAndLengthFollowTheVariant := by
  intro maxPayload d F h
  obtain ⟨ht, -, -, -, rfl⟩ | ⟨ht, rfl⟩ | ⟨ht, rfl⟩ | ⟨ht, rfl⟩ | ⟨ht, -, hl, rfl⟩ := build_ok h
  · simp [ht]
  · simp [ht]
  · simp [ht]
  · simp [ht]
  · simp [ht, hl]

/-- Settles O16, by the five frames the builder can answer; the service-mode descriptor of `L = 1` begins with its payload
byte. -/
theorem firstByteValues : Obligations.FirstByteValues := by
  refine ⟨fun maxPayload d F h => ?_, fun maxPayload b h2 => ?_⟩
  · obtain ⟨ht, ha, ha', -, rfl⟩ | ⟨ht, rfl⟩ | ⟨ht, rfl⟩ | ⟨ht, rfl⟩ | ⟨ht, -, -, rfl⟩ := build_ok h
    · have hlt : (descAddr d).toNat < 0x80 := by omega
      simp [ht, withChecksum, ha, ha', hlt]
    · simp [ht, withChecksum]
    · simp [ht, withChecksum]
    · simp [ht, withChecksum]
    · simp [ht]
  · have hw : (Instr.svcMode 1 (b :: zeroDesc (maxPayload - 1))).wellFormed maxPayload = true := by
      simp only [Instr.wellFormed, List.length_cons, zeroDesc_length, decide_eq_true_eq]
      omega
    have hbuild := Option.some.inj (builtBy_eq_build_encodeDesc h2 rfl hw)
    exact ⟨_, _, Laws.EncodeWidth.svcMode _ _ _ h2 hw, rfl, hbuild.symm.trans (buildSvcMode_one (by omega) b _),
      by simp⟩

/-- Settles O17: the second byte of the frame is the data byte of its variant. -/
theorem reservedSpeedCodesAreNeverSent : Obligations.ReservedSpeedCodesAreNeverSent := by
  intro maxPayload d F h
  obtain ⟨ht, -, -, hs, rfl⟩ | ⟨ht, rfl⟩ | ⟨ht, rfl⟩ | ⟨ht, rfl⟩ | ⟨ht, -, -, rfl⟩ := build_ok h
  · simpa [ht, withChecksum] using speedCode_ne_reserved hs
  · simp [ht]
  · simp [ht]
  · simpa [ht, withChecksum] using readSpeedDataByte_bcastDataByte (descEmergency d)
  · simp [ht]

/-! ## The assembler -/

namespace Machine

/-- Every number fits its field exactly when the assembler finds none that does not (30 R94). -/
theorem tooWide_eq_none_iff {l : List Nat} : tooWide l = none ↔ ∀ n ∈ l, n < 256 := by
  simp [tooWide]

/-- The number that the assembler names is one of the line's that does not fit. -/
theorem mem_of_tooWide {l : List Nat} {v : Nat} (h : tooWide l = some v) : v ∈ l ∧ 256 ≤ v :=
  ⟨List.mem_of_find?_eq_some h, by simpa using List.find?_some h⟩

theorem exists_tooWide {l : List Nat} (h : ∃ n ∈ l, 256 ≤ n) : ∃ v, tooWide l = some v := by
  rw [← Option.ne_none_iff_exists', Ne, tooWide_eq_none_iff]
  obtain ⟨n, hn, hwide⟩ := h
  exact fun hall => absurd (hall n hn) (by omega)

/-- The SVC_MODE command of an `SVC` line: the number of its bytes, its bytes, and zeros up to the port's width. -/
def svcCommand (maxPayload : Nat) (bytes : List Nat) : Instr :=
  .svcMode (BitVec.ofNat 8 bytes.length) (bytes.map (BitVec.ofNat 8) ++ zeroDesc (maxPayload - bytes.length))

theorem svcCommand_wellFormed {maxPayload : Nat} {bytes : List Nat} (h : bytes.length ≤ maxPayload) :
    (svcCommand maxPayload bytes).wellFormed maxPayload = true := by
  simp [svcCommand, Instr.wellFormed, h]

/-- An `SVC` line whose bytes fit is the descriptor of its command, which decodes to it (30 R94). -/
theorem assemblePacket_svc {maxPayload : Nat} {bytes : List Nat} (h2 : 2 ≤ maxPayload) (hl : bytes.length ≤ maxPayload)
    (hb : ∀ b ∈ bytes, b < 256) : ∃ d, assemblePacket maxPayload (.svc bytes) = .ok d ∧
      decodePacket maxPayload d = .ok (svcCommand maxPayload bytes) := by
  refine ⟨_, ?_, decodePacket_encodeDesc h2 rfl (svcCommand_wellFormed hl)⟩
  simp only [assemblePacket, if_neg (Nat.not_lt.2 hl), tooWide_eq_none_iff.2 hb, svcCommand]

/-- Numbers that fit a byte are read back from their bytes. -/
theorem map_toNat_map_ofNat {bytes : List Nat} (h : ∀ b ∈ bytes, b < 256) :
    (bytes.map (BitVec.ofNat 8)).map BitVec.toNat = bytes := by
  rw [List.map_map]
  exact (List.map_congr_left fun b hb => Nat.mod_eq_of_lt (h b hb)).trans (List.map_id _)

end Machine

/-- Settles O52: the assembler's descriptors are those of the encoder, and its refusals are those of `tooWide` and of the
length. -/
theorem assemblerEncodesItsNumbers : Obligations.AssemblerEncodesItsNumbers := by
  intro maxPayload h2 _
  refine ⟨fun a n fwd ha hn => ?_, fun a n fwd h => ?_, fun bytes _ hl hb => ?_, ?_, fun bytes hl h => ?_,
    fun bytes hl => ?_⟩
  · have hfit : tooWide [a, n] = none := tooWide_eq_none_iff.2 (by simp [ha, hn])
    exact ⟨_, by simp only [assemblePacket, hfit], decodePacket_encodeDesc h2 rfl rfl⟩
  · obtain ⟨v, hv⟩ := exists_tooWide (l := [a, n]) (by simpa using h)
    exact ⟨v, by simp only [assemblePacket, hv]⟩
  · obtain ⟨d, hd, hdec⟩ := assemblePacket_svc h2 hl hb
    refine ⟨d, _, hd, hdec, ?_⟩
    rw [List.take_left' (List.length_map _), map_toNat_map_ofNat hb]
  · obtain ⟨d, hd, hdec⟩ := assemblePacket_svc (bytes := []) h2 (Nat.zero_le _) nofun
    exact ⟨d, _, hd, hdec⟩
  · obtain ⟨v, hv⟩ := exists_tooWide h
    obtain ⟨hmem, hwide⟩ := mem_of_tooWide hv
    exact ⟨v, hmem, hwide, by simp only [assemblePacket, if_neg (Nat.not_lt.2 hl), hv]⟩
  · simp only [assemblePacket, if_pos hl]

/-- Settles O53: of the ADVANCEs left in the frame the last one, and none before it, runs at the boundary. -/
theorem frameLineEndsAtTheHandoff : Obligations.FrameLineEndsAtTheHandoff := by
  intro s h
  have hpos := halfBitsLeft_pos s
  refine ⟨halfBitsLeft s, rfl, ?_, fun m t tr hm hrun => ?_, hpos, fun hstart => (left_of_atFrameStart hstart).1⟩
  · obtain ⟨t, tr, hrun, hcur, -, -, hb⟩ := noHandoffBeforeTheBoundary s (halfBitsLeft s - 1) h (by omega)
    exact ⟨t, tr, hrun, hb.2 (by omega), hcur⟩
  · obtain ⟨t', tr', hrun', -, -, -, hb⟩ := noHandoffBeforeTheBoundary s m h (by omega)
    cases hrun.symm.trans hrun'
    rw [hb]
    omega

/-! ## The clock edge -/

/-- Settles O1: the head of the list of samples is the edge's own, and an empty list decodes to NOP. -/
theorem stepRunsTheSampledOperation : Obligations.StepRunsTheSampledOperation := by
  intro s hl
  refine ⟨fun x rest hin => ?_, fun hin => ?_⟩
  · rw [step_of_legal hl]
    simp [fetch, nextSample, consumeSample, hin]
  · have hc : consumeSample s = s := by
      rw [consumeSample, hin, List.tail_nil, ← hin]
      rfl
    have hf : fetch s = .nop := by simp [fetch, nextSample, hin, idleSample]
    rw [step_of_legal hl, hf, hc]

/-- Settles O2, by the five meanings of the control vector (30 R93). -/
theorem everyControlVectorHasItsMeaning : Obligations.EveryControlVectorHasItsMeaning := by
  intro s d rest hl edge s'
  have hedge : ∀ {c i}, decodeCtl c d = i → edge c = exec i s' := fun h => by
    rw [← h, ← decodeSample_portSampleOf]
    exact (step_setInputs_cons hl _ _).2
  refine ⟨hedge (decodeCtl_nop d), hedge (decodeCtl_offer d), hedge (decodeCtl_advance d), ?_,
    fun c hc => hedge (decodeCtl_reset hc d)⟩
  refine (hedge (decodeCtl_advance_offer d)).trans ?_
  rw [exec_advance_none]
  cases ha : advanceHalfBit s' with
  | next t => exact exec_advance_some ha d
  | fault f => simp only [exec, execAdvance, ha]
  | refused r => simp only [exec, execAdvance, ha]

/-- Settles O3, word by word. -/
theorem wordsOfTheSpecDecode : Obligations.WordsOfTheSpecDecode := by
  refine ⟨?_, ?_, ?_, ?_, ?_, ?_, ?_, ?_, ?_, ?_, ?_, ?_⟩
  all_goals decide

end Sys2Proof

/-! # Proofs for 40_packet_builder.md

What each builder answers by the range of its operands, the checksum as the last byte, and the statements of the packet
commands. -/

namespace Sys2Proof

namespace Machine

/-! ## The checksum -/

/-- The XOR of a list of bytes from the left is its checksum (40 R111). -/
theorem foldl_xor_zero (l : List Byte) : l.foldl (· ^^^ ·) 0 = xsum l := by simp [foldl_xor_eq]

/-- The last byte of a non-empty frame that sums to zero is the checksum of the bytes before it (40 R111, R119). -/
theorem getLast?_eq_of_xsum_eq_zero {l : List Byte} (hne : l ≠ []) (h : xsum l = 0) :
    l.getLast? = some (xsum l.dropLast) := by
  have hsum : xsum l.dropLast ^^^ xsum [l.getLast hne] = 0 := by
    rw [← xsum_append, List.dropLast_concat_getLast, h]
  rw [List.getLast?_eq_some_getLast hne, BitVec.xor_eq_zero_iff.1 hsum]
  simp [xsum]

/-! ## The builders' answers by the range of the operands -/

section Ranges
variable {maxPayload : Nat} {addr speed len : Byte}

theorem buildSpeedDir_of_inRange (h1 : 1 ≤ addr.toNat) (h127 : addr.toNat ≤ 127) (h28 : speed.toNat ≤ 28) (dir : Bool) :
    buildSpeedDir maxPayload addr speed dir =
      .ok (frameOf maxPayload (withChecksum [addr, speedDataByte dir (speedCode speed.toNat)]) .ops) := by
  rw [buildSpeedDir, if_neg (by omega), if_neg (by omega)]

theorem buildSpeedDir_of_addr (h : addr.toNat = 0 ∨ 127 < addr.toNat) (dir : Bool) :
    buildSpeedDir maxPayload addr speed dir = .outOfRange .addr := if_pos h

theorem buildSpeedDir_of_speed (h1 : 1 ≤ addr.toNat) (h127 : addr.toNat ≤ 127) (h28 : 28 < speed.toNat) (dir : Bool) :
    buildSpeedDir maxPayload addr speed dir = .outOfRange .speed := by
  rw [buildSpeedDir, if_neg (by omega), if_pos h28]

theorem buildSvcMode_of_inRange (h1 : 1 ≤ len.toNat) (hmax : len.toNat ≤ maxPayload) (payload : List Byte) :
    buildSvcMode maxPayload len payload = .ok (frameOf maxPayload (withChecksum (payload.take len.toNat)) .svc) := by
  rw [buildSvcMode, if_neg (by omega)]

theorem buildSvcMode_of_len (h : len.toNat = 0 ∨ maxPayload < len.toNat) (payload : List Byte) :
    buildSvcMode maxPayload len payload = .outOfRange .len := if_pos h

end Ranges

/-! ## The data byte of SPEED_DIR as a number -/

/-- The byte `01DCSSSS` with the code of stop (30 R75, R76). -/
theorem speedDataByte_stop_toNat (dir : Bool) : (speedDataByte dir (speedCode 0)).toNat = 64 + 32 * dir.toNat := by
  cases dir <;> decide

/-- The byte `01DCSSSS` with the code of a step, whose low bit goes to `C` and the others to `SSSS` (30 R75, R76). -/
theorem speedDataByte_step_toNat (dir : Bool) {n : Nat} (h1 : 1 ≤ n) (h28 : n ≤ 28) :
    (speedDataByte dir (speedCode n)).toNat = 64 + 32 * dir.toNat + 16 * ((n + 3) % 2) + (n + 3) / 2 := by
  have hall : ∀ dir : Bool, ∀ n < 29, 1 ≤ n →
      (speedDataByte dir (speedCode n)).toNat = 64 + 32 * dir.toNat + 16 * ((n + 3) % 2) + (n + 3) / 2 := by decide
  exact hall dir n (by omega) h1

/-- The 28-step code reads back (40 R122). -/
theorem speedDecode_speedCode {n : Nat} (h : n ≤ 28) :
    speedDecode (speedCode n) = if n = 0 then .stop false else .stepTo n := by
  have hall : ∀ n < 29, speedDecode (speedCode n) = if n = 0 then .stop false else .stepTo n := by decide
  exact hall n (by omega)

/-! ## A packet command by its builder's answer -/

/-- The state and the frame of a packet command that offers these bytes with this class. -/
theorem offers_of_builtBy {i : Instr} {s : State} {sent : List Byte} {cls : FrameClass}
    (h : builtBy s.cfg.maxPayload i = some (.ok (frameOf s.cfg.maxPayload sent cls))) :
    ∃ t F, exec i s = .next t ∧ LeavesOffer s t F ∧ HoldsFrame F sent cls :=
  ⟨_, _, exec_of_builtBy h, leavesOffer_offerBuilt _ s, frameOf_len _ _ _, frameOf_sent _ _ _, frameOf_cls _ _ _⟩

/-- A packet command that does not build changes the status only (42 R162). -/
theorem exec_of_builtBy_outOfRange {i : Instr} {s : State} {r : OutOfRange}
    (h : builtBy s.cfg.maxPayload i = some (.outOfRange r)) : exec i s = .next { s with ost := .outOfRange } :=
  exec_of_builtBy h

end Machine

open Machine

/-- Settles O9: the builder answers `[addr, data, addr xor data]`, and the data byte is a number by its code. -/
theorem speedDirOffersItsFrame : Obligations.SpeedDirOffersItsFrame := by
  intro s addr speed dir h1 h127 h28
  have hsent : withChecksum [addr, speedDataByte dir (speedCode speed.toNat)] =
      [addr, speedDataByte dir (speedCode speed.toNat), addr ^^^ speedDataByte dir (speedCode speed.toNat)] := by
    simp [withChecksum, xsum]
  obtain ⟨t, F, hexec, hoffer, hframe⟩ := offers_of_builtBy (i := .speedDir addr speed dir)
    (congrArg some (hsent ▸ buildSpeedDir_of_inRange h1 h127 h28 dir))
  exact ⟨t, F, _, hexec, hoffer, hframe, fun h0 => h0 ▸ speedDataByte_stop_toNat dir,
    fun hstep => speedDataByte_step_toNat dir hstep h28⟩

/-- Settles O10: the builder's reason, address first, and the OFFER of an `OutOfRange`. -/
theorem speedDirOutOfRangeOnlySetsTheStatus : Obligations.SpeedDirOutOfRangeOnlySetsTheStatus := by
  intro s addr speed dir
  refine ⟨fun h => buildSpeedDir_of_addr h dir, fun h1 h127 h28 => buildSpeedDir_of_speed h1 h127 h28 dir, fun h => ?_⟩
  by_cases ha : addr.toNat = 0 ∨ 127 < addr.toNat
  · exact exec_of_builtBy_outOfRange (congrArg some (buildSpeedDir_of_addr ha dir))
  · exact exec_of_builtBy_outOfRange
      (congrArg some (buildSpeedDir_of_speed (by omega) (by omega) (by omega) dir))

/-- Settles O12: in range the payload is closed by its checksum, the fold of its bytes. -/
theorem svcModeOffersItsFrame : Obligations.SvcModeOffersItsFrame := by
  intro s len payload hlen
  refine ⟨fun h1 hmax => ?_, fun h => ?_⟩
  · obtain ⟨t, F, hexec, hoffer, hframe⟩ := offers_of_builtBy (i := .svcMode len payload)
      (congrArg some (buildSvcMode_of_inRange h1 hmax payload))
    refine ⟨t, F, hexec, hoffer, ?_, ?_⟩
    · obtain ⟨hF, -⟩ := hframe
      rw [hF, withChecksum_length, List.length_take, hlen, Nat.min_eq_left hmax]
    · rwa [foldl_xor_zero]
  · have hbuild := buildSvcMode_of_len h payload
    exact ⟨hbuild, exec_of_builtBy_outOfRange (congrArg some hbuild)⟩

/-- Settles O14: a frame that the builder answers fits its register and sums to zero, so its last byte is the checksum of
the others. -/
theorem everyBuiltFrameHasAGoodChecksum : Obligations.EveryBuiltFrameHasAGoodChecksum := by
  intro maxPayload d F h2 h
  obtain ⟨hreg, hok⟩ := build_fits (p := { Params.default with maxPayload }) h2 d F h
  obtain ⟨hlen2, hlenMax, hsum⟩ := (frameOk_iff _ F).1 hok
  have hsent : F.sent.length = F.len := Frame.sent_length (hreg ▸ hlenMax)
  have hne : F.sent ≠ [] := List.ne_nil_of_length_pos (by omega)
  simp only [foldl_xor_zero]
  exact ⟨hsum, hlen2, hlenMax, hsent, hreg, getLast?_eq_of_xsum_eq_zero hne hsum⟩

/-- Settles O11, one builder without operand checks after the other. -/
theorem fixedPacketsOfferTheirFrames : Obligations.FixedPacketsOfferTheirFrames :=
  fun _ => ⟨offers_of_builtBy rfl, offers_of_builtBy rfl, offers_of_builtBy rfl, offers_of_builtBy rfl⟩

/-- Settles O18: the code reads back, and the data byte carries it beside the direction. -/
theorem speedCodeReadsBack : Obligations.SpeedCodeReadsBack :=
  fun _ hn dir => ⟨speedDecode_speedCode hn, readSpeedDataByte_speedDataByte dir _⟩

end Sys2Proof

/-! # Proofs for 41_bit_timing.md

The counts of the logical bits of a frame and of its pulse train, the phase after an ADVANCE, and the statements of the
encoder. -/

namespace Sys2Proof

namespace Machine

/-! ## The bits of a frame, counted -/

@[simp] theorem byteBits_length (x : Byte) : (byteBits x).length = 8 := rfl

/-- Each byte has eight bits, and each but the last a separator (30 R70). -/
theorem bodyBits_length {l : List Byte} (h : l ≠ []) : (bodyBits l).length + 1 = 9 * l.length := by
  induction l using bodyBits.induct with
  | case1 => exact absurd rfl h
  | case2 x => rfl
  | case3 x y rest ih =>
    have hrest := ih (List.cons_ne_nil y rest)
    simp only [bodyBits, List.length_append, List.length_cons, byteBits_length] at hrest ⊢
    omega

/-- The separators add no 1 bits to those of the bytes (30 R70). -/
theorem bodyBits_count_true (l : List Byte) : (bodyBits l).count true = (l.map popcount).sum := by
  induction l using bodyBits.induct with
  | case1 => rfl
  | case2 x => simp [bodyBits, popcount]
  | case3 x y rest ih => simpa [bodyBits, popcount] using ih

/-- Preamble, start bit, bytes with separators and end bit are `P + 9n + 1` bits (41 R148). -/
theorem wireBits_length (p : Params) {F : Frame} (h1 : 1 ≤ F.len) (hreg : F.len ≤ F.bytes.length) :
    (wireBits p F).length = preLen p F.cls + 9 * F.len + 1 := by
  have hsent := Frame.sent_length hreg
  have hbody := bodyBits_length (List.ne_nil_of_length_pos (l := F.sent) (by omega))
  simp only [wireBits, List.length_append, List.length_cons, List.length_replicate, List.length_nil]
  omega

/-- The 1 bits are the preamble's, the bytes' and the end bit (41 R148). -/
theorem wireBits_count_true (p : Params) (F : Frame) :
    (wireBits p F).count true = preLen p F.cls + frameWeight F + 1 := by
  simp [wireBits, frameWeight, bodyBits_count_true, Nat.add_assoc]

/-- The 0 bits are the bits that are not 1 (41 R148). -/
theorem wireBits_count_false (p : Params) {F : Frame} (h1 : 1 ≤ F.len) (hreg : F.len ≤ F.bytes.length) :
    (wireBits p F).count false = 9 * F.len - frameWeight F := by
  have hall := List.count_true_add_count_false (wireBits p F)
  rw [wireBits_length p h1 hreg, wireBits_count_true] at hall
  omega

/-! ## Its half-bits and their durations -/

/-- Each logical bit is two half-bits (30 R72). -/
theorem flatMap_bitPulses_length (p : Params) (l : List Bool) : (l.flatMap (bitPulses p)).length = 2 * l.length := by
  simp [List.length_flatMap, bitPulses, Nat.mul_comm]

/-- Both half-bits of a logical bit last the half-period of its value (41 R143). -/
theorem flatMap_bitPulses_sum (p : Params) (l : List Bool) :
    ((l.flatMap (bitPulses p)).map fun x => x.2.toNat).sum =
      2 * p.tOneUs.toNat * l.count true + 2 * p.tZeroUs.toNat * l.count false := by
  induction l with
  | nil => rfl
  | cons b l ih =>
    have hbit : ((bitPulses p b).map fun x => x.2.toNat).sum = 2 * (dur p b).toNat := by simp [bitPulses, two_mul]
    rw [List.flatMap_cons, List.map_append, List.sum_append, ih, hbit]
    cases b with
    | false => rw [List.count_cons_of_ne (by decide), List.count_cons_self, dur, if_neg (by decide)]; ring
    | true => rw [List.count_cons_self, List.count_cons_of_ne (by decide), dur, if_pos rfl]; ring

/-! ## The phase after an ADVANCE -/

@[simp] theorem nextFrame_setHalf (s : State) (h : Half) : nextFrame (s.setHalf h) = nextFrame s := rfl

@[simp] theorem nextFrame_emitHalfBit (b : Bool) (s : State) : nextFrame (emitHalfBit b s) = nextFrame s := rfl

/-- The cursor step keeps the phase in the first half; in the second it takes the successor, which past the end bit is
the first preamble bit of the next frame (41 R145; 42 R160, R161). -/
theorem stepCursor_phase (s : State) : (stepCursor s).phase = if s.half = .h1 then s.phase
    else (nextPhase s.cur s.phase).getD (.pre (preLen s.cfg (nextFrame s).cls)) := by
  obtain ⟨hh, he⟩ | ⟨hh, p, hn, he⟩ | ⟨hh, hn, he⟩ := stepCursor_cases s
  · simp [he, hh]
  · simp [he, hh, hn]
  · simp [he, hh, hn]

/-- After bit 0 of a byte comes the separator, or after the last byte the end bit (41 R145). -/
theorem nextPhase_data_zero (F : Frame) (i : Nat) :
    nextPhase F (.data i 0) = some (if i + 1 < F.len then .sep i else .endBit) := by
  by_cases hlast : i + 1 < F.len
  · simp [nextPhase, hlast, show i < F.len - 1 by omega]
  · simp [nextPhase, hlast, show ¬ i < F.len - 1 by omega]

end Machine

open Machine

/-- Settles O20: `HalfBits` ADVANCEs from the start of a frame reach the state past its boundary. -/
theorem advancesEmitTheWholeFrame : Obligations.AdvancesEmitTheWholeFrame :=
  fun _ hs hstart => runAdvances_halfBits hs hstart

/-- The weight, the half-bits and the time of a frame depend on its own bytes and its class (41 R148). -/
theorem HoldsFrame.counts {F : Frame} {sent : List Byte} {cls : FrameClass} (h : HoldsFrame F sent cls) (p : Params) :
    frameWeight F = (sent.map popcount).sum ∧ halfBits p F = 2 * (preLen p cls + 9 * sent.length + 1) ∧
    frameTime p F = 2 * p.tOneUs.toNat * (preLen p cls + (sent.map popcount).sum + 1)
      + 2 * p.tZeroUs.toNat * (9 * sent.length - (sent.map popcount).sum) := by
  obtain ⟨hlen, hsent, hcls⟩ := h
  simp only [frameWeight, halfBits, frameTime, hlen, hsent, hcls, and_self]

/-- Settles O19: the bits are counted part by part, and each gives two half-bits of its duration; the two
examples are computed from their bytes. -/
theorem frameCountsAndTime : Obligations.FrameCountsAndTime := by
  refine ⟨fun p F h1 hreg => ?_, fun F hF => hF.counts Params.default, fun F hF => hF.counts Params.default⟩
  have hlen := wireBits_length p h1 hreg
  have hone := wireBits_count_true p F
  have hzero := wireBits_count_false p h1 hreg
  refine ⟨hlen, ?_, hone, hzero, ?_⟩
  · rw [pulseTrain, flatMap_bitPulses_length, hlen, halfBits]
  · rw [pulseTrain, flatMap_bitPulses_sum, hone, hzero, frameTime]

/-- Settles O22: the halves alternate, and the phase moves to its successor after the second of them. -/
theorem advanceStepsTheCursor : Obligations.AdvanceStepsTheCursor := by
  intro s h
  obtain ⟨b, -, he⟩ := advanceHalfBit_of_inv h
  have hhalf := stepCursor_half (emitHalfBit b s)
  have hphase := stepCursor_phase (emitHalfBit b s)
  refine ⟨_, (exec_advance_none s).trans he, fun h1 => ?_, fun h2 => ?_⟩
  · simp [hhalf, hphase, h1]
  · simp only [emitHalfBit_half, h2, reduceCtorEq, if_false, emitHalfBit_cur, emitHalfBit_phase] at hhalf hphase
    refine ⟨hhalf, fun k hk hlt => ?_, fun hk => ?_, fun hk => ?_, fun i b hk hpos => ?_, fun i hk hlt => ?_,
      fun i hk heq => ?_, fun i hk => ?_, fun hk => ⟨preLen s.cfg (nextFrame s).cls, ?_⟩⟩
    · simp [hphase, hk, nextPhase, hlt]
    · simp [hphase, hk, nextPhase]
    · simp [hphase, hk, nextPhase]
    · simp [hphase, hk, nextPhase, hpos]
    · simp [hphase, hk, nextPhase_data_zero, hlt]
    · simp [hphase, hk, nextPhase_data_zero, heq]
    · simp [hphase, hk, nextPhase]
    · simp [hphase, hk, nextPhase]

end Sys2Proof

/-! # Proofs for 42_transmission.md

Whole frames one after another, the handoff with and without a waiting packet, and the statements of ADVANCE, OFFER and
NOP. -/

namespace Sys2Proof

namespace Machine

/-! ## Whole frames one after another -/

/-- A run of ADVANCEs continued from where it ended. -/
theorem runAdvances_add (m n : Nat) (s : State) : runAdvances (m + n) s =
    (runAdvances m s).bind fun r => (runAdvances n r.1).map fun q => (q.1, r.2 ++ q.2) := by
  induction m generalizing s with
  | zero => simp [runAdvances]
  | succ m ih =>
    rw [Nat.succ_add]
    cases ha : advanceHalfBit s with
    | next t =>
      rw [runAdvances_succ ha, runAdvances_succ ha, ih]
      cases runAdvances m t <;> simp [Function.comp_def]
    | fault f => simp [runAdvances, exec_advance_none, ha]
    | refused r => simp [runAdvances, exec_advance_none, ha]

/-- With a packet waiting, the handoff sends it (42 R161). -/
theorem nextFrame_of_valid {s : State} (h : s.pend.valid = true) : nextFrame s = s.pend.frame := if_pos h

/-- With an empty slot, the handoff sends the current frame again (42 R161). -/
theorem nextFrame_of_empty {s : State} (h : s.pend.valid = false) : nextFrame s = s.cur := by simp [nextFrame, h]

/-- Clearing an empty slot changes nothing of it. -/
theorem Slot.clear_of_empty {slot : Slot} (h : slot.valid = false) : slot.clear = slot := by
  rw [Slot.clear, ← h]

end Machine

open Machine

/-- Settles O48: the rest of the current frame ends in the handoff, which puts the waiting packet at its start. -/
theorem waitingPacketIsSentNext : Obligations.WaitingPacketIsSentNext := by
  intro s hs hv
  have hcur : (afterBoundary s).cur = s.pend.frame := nextFrame_of_valid hv
  have hwhole := runAdvances_halfBits (safe_afterBoundary hs).2 (atFrameStart_afterBoundary s)
  rw [hcur] at hwhole
  exact ⟨_, _, _, runAdvances_halfBitsLeft hs.2, hcur, rfl, atFrameStart_afterBoundary s, hwhole⟩

/-- Settles O49, by induction on the number of frames: each ends where the same frame starts. -/
theorem frameIsRefreshedForEver : Obligations.FrameIsRefreshedForEver := by
  intro s n
  induction n generalizing s with
  | zero =>
    intro _ hstart hv
    exact ⟨s, by simp [runAdvances], rfl, hstart, hv⟩
  | succ n ih =>
    intro hs hstart hv
    have hcur : (afterBoundary s).cur = s.cur := nextFrame_of_empty hv
    obtain ⟨t, hrun, htcur, htstart, htv⟩ :=
      ih (afterBoundary s) (safe_afterBoundary hs) (atFrameStart_afterBoundary s) rfl
    have hcfg : (afterBoundary s).cfg = s.cfg := rfl
    rw [hcur, hcfg] at hrun
    refine ⟨t, ?_, htcur.trans hcur, htstart, htv⟩
    rw [Nat.succ_mul, Nat.add_comm, runAdvances_add, runAdvances_halfBits hs.2 hstart, Option.bind_some, hrun,
      Option.map_some, List.replicate_succ, List.flatten_cons]

/-! ## ADVANCE -/

namespace Machine

/-- Inside `Inv` ADVANCE completes with the level of its half and the duration of the bit due (42 R160, R169). -/
theorem advance_pin_dly {s : State} (h : inv s = true) : ∃ t b, advanceHalfBit s = .next t ∧
    bitAt s.cur s.phase = some b ∧ t.pin = level s.half ∧ t.dly = dur s.cfg b := by
  obtain ⟨b, hb, he⟩ := advanceHalfBit_of_inv h
  exact ⟨_, b, he, hb, by simp, by simp⟩

/-- Inside `Inv` the pin is at the level of the half before, so the due half inverts it (42 R168). -/
theorem level_half_of_inv {s : State} (h : inv s = true) : level s.half = !s.pin := by
  obtain ⟨-, -, -, -, hpin, -⟩ := (inv_iff s).1 h
  rw [hpin]
  cases s.half <;> rfl

/-- At the boundary with a packet offered at the same edge, the handoff empties the slot and the offered packet takes it
(42 R164). -/
theorem exec_advance_some_atBoundary {s : State} {d : Desc} {F : Frame} (h : inv s = true) (hb : AtBoundary s)
    (hF : build s.cfg.maxPayload d = .ok F) :
    exec (.advance (some d)) s = .next { afterBoundary s with pend := ⟨true, F⟩, ost := .accepted } := by
  obtain ⟨hadv, -⟩ := advance_atBoundary h hb
  have hbuild : build (afterBoundary s).cfg.maxPayload d = .ok F := hF
  obtain ⟨hempty, -⟩ := leavesOffer_offerBuilt F (afterBoundary s)
  rw [exec_advance_some hadv, offerDesc_eq, hbuild, hempty rfl]

end Machine

/-- Settles O21: the phase gives the bit due, and the bit its duration. -/
theorem advanceWritesPinAndDelay : Obligations.AdvanceWritesPinAndDelay := by
  intro s h
  obtain ⟨t, b, he, hb, hpin, hdly⟩ := advance_pin_dly h
  have hdue : ∀ {ph c}, s.phase = ph → bitAt s.cur ph = some c → t.dly = dur s.cfg c := fun hph hc => by
    rw [hdly, Option.some.inj (hb.symm.trans (hph ▸ hc))]
  refine ⟨t, (exec_advance_none s).trans he, fun hh => by rw [hpin, hh, level], fun hh => by rw [hpin, hh, level],
    fun k hk => hdue (c := true) hk rfl, fun hk => hdue (c := false) hk rfl, fun i j hk => ?_,
    fun i hk => hdue (c := false) hk rfl, fun hk => hdue (c := true) hk rfl⟩
  have hbit := hk ▸ hb
  rw [bitAt, Option.map_eq_some_iff] at hbit
  obtain ⟨x, hx, rfl⟩ := hbit
  exact ⟨x, hx, hdly⟩

/-- Settles O23: the state past the boundary, by what the slot holds. -/
theorem handoffInstallsOrRetransmits : Obligations.HandoffInstallsOrRetransmits := by
  intro s h hb
  obtain ⟨hadv, -⟩ := advance_atBoundary h hb
  rw [exec_advance_none, hadv, afterBoundary]
  refine ⟨fun hv => ?_, fun hv => ?_⟩
  · rw [nextFrame_of_valid hv, Slot.clear]
  · rw [nextFrame_of_empty hv, Slot.clear_of_empty hv]

/-- Settles O24, by what the cursor step leaves away from the boundary and with an empty slot. -/
theorem advanceFrame : Obligations.AdvanceFrame := by
  intro s t h
  rw [exec_advance_none] at h
  obtain ⟨hcfg, hinputs, host, hframe⟩ := advanceHalfBit_unwritten h
  obtain ⟨-, b, -, rfl⟩ := advanceHalfBit_next h
  refine ⟨host, hframe, hcfg, hinputs, by simp, fun hh => by simp [stepCursor_phase, hh], fun hb => ?_, fun hv => ?_⟩
  · obtain ⟨hcur, hpend, -⟩ := stepCursor_of_not_atBoundary (s := emitHalfBit b s) hb
    exact ⟨hcur, hpend⟩
  · exact stepCursor_of_empty (s := emitHalfBit b s) hv

/-- Settles O26: the half due inverts the pin, and an OFFER of the same edge does not write it. -/
theorem everyAdvanceTogglesThePin : Obligations.EveryAdvanceTogglesThePin := by
  have htoggle : ∀ (s : State) (off : Option Desc), inv s = true →
      ∃ t, exec (.advance off) s = .next t ∧ t.pin = !s.pin := fun s off h => by
    obtain ⟨t, -, he, -, hpin, -⟩ := advance_pin_dly h
    rw [level_half_of_inv h] at hpin
    cases off with
    | none => exact ⟨t, (exec_advance_none s).trans he, hpin⟩
    | some d => exact ⟨offerDesc d t, exec_advance_some he d, hpin⟩
  obtain ⟨⟨-, hreset⟩, -⟩ := resetStateIsSafe
  exact ⟨htoggle, rfl, htoggle State.reset none hreset⟩

/-! ## OFFER and NOP -/

namespace Machine

/-- OFFER offers what the descriptor builds (42 R162). -/
theorem exec_offer_of_build {s : State} {d : Desc} {r : Built} (h : build s.cfg.maxPayload d = r) :
    exec (.offer d) s = .next (offerBuilt r s) := by
  rw [← h]
  rfl

/-- An OFFER that reports OUT_OF_RANGE or REJECTED_FULL leaves the slot (42 R162). -/
theorem offerBuilt_not_taken {r : Built} {s : State}
    (h : (offerBuilt r s).ost = .outOfRange ∨ (offerBuilt r s).ost = .rejectedFull) :
    (offerBuilt r s).pend = s.pend := by
  cases r with
  | outOfRange _ => rfl
  | ok F =>
    obtain ⟨hempty, hover, hrej⟩ := leavesOffer_offerBuilt F s
    cases hv : s.pend.valid with
    | false => simp [hempty hv] at h
    | true =>
      cases hp : s.cfg.mboxPolicy with
      | overwrite => simp [hover hv hp] at h
      | reject => rw [hrej hv hp]

end Machine

/-- Settles O28, by the builder's answer. -/
theorem offerWritesTheMailbox : Obligations.OfferWritesTheMailbox :=
  fun s _ => ⟨fun F hF => ⟨_, exec_offer_of_build hF, leavesOffer_offerBuilt F s⟩, fun _ hr => exec_offer_of_build hr⟩

/-- Settles O29: OFFER and each packet command are the OFFER of an answer of the builder, and the status says whether its
frame was taken. -/
theorem offerFrame : Obligations.OfferFrame := by
  intro i s hi
  obtain ⟨r, he⟩ : ∃ r, exec i s = .next (offerBuilt r s) := by
    obtain hi | ⟨d, rfl⟩ := hi
    · exact exec_packet hi s
    · exact ⟨_, exec_offer_of_build rfl⟩
  refine ⟨_, he, rfl, rfl, rfl, rfl, rfl, rfl, rfl, rfl, offerBuilt_not_taken, fun htaken => ?_⟩
  obtain ⟨F, -, hpend⟩ := offerBuilt_taken htaken
  rw [hpend]

/-- Settles O30: the OFFER runs on the state that ADVANCE left, and at a boundary its slot is empty. -/
theorem sameEdgeAdvanceRunsFirst : Obligations.SameEdgeAdvanceRunsFirst := by
  intro s d
  refine ⟨?_, fun F h hb hv hF => ?_, fun F h hb hv hF => ?_⟩
  · rw [exec_advance_none]
    cases ha : advanceHalfBit s with
    | next t => exact exec_advance_some ha d
    | fault f => simp only [exec, execAdvance, ha]
    | refused r => simp only [exec, execAdvance, ha]
  · exact ⟨_, exec_advance_some_atBoundary h hb hF, nextFrame_of_valid hv, rfl, rfl⟩
  · exact ⟨_, exec_advance_some_atBoundary h hb hF, nextFrame_of_empty hv, rfl, rfl⟩

/-- Settles O27: NOP answers the state itself. -/
theorem nopHoldsEverything : Obligations.NopHoldsEverything := fun s => ⟨s, rfl, rfl, rfl⟩

end Sys2Proof

/-! # Proofs for 60_exceptions.md

The completion of every edge inside `Inv`, the runs that follow from it, and the reasons of an `OutOfRange`. -/

namespace Sys2Proof

open Machine

/-! ## No run stops -/

namespace Machine

/-- Inside `Inv` ADVANCE completes, with an OFFER at the same edge or without (60 R192). -/
theorem exec_advance_completes {s : State} (h : inv s = true) (off : Option Desc) :
    ∃ t, exec (.advance off) s = .next t := by
  obtain ⟨t, ht⟩ := advance_completes h
  cases off with
  | none => exact ⟨t, (exec_advance_none s).trans ht⟩
  | some d => exact ⟨offerDesc d t, exec_advance_some ht d⟩

/-- Outside `Inv` ADVANCE faults, with an OFFER at the same edge or without (60 R192). -/
theorem exec_advance_of_not_inv {s : State} (h : inv s = false) (off : Option Desc) :
    exec (.advance off) s = .fault .badState := by
  simp only [exec, execAdvance, advanceHalfBit_of_not_inv h]

end Machine

/-- Every port operation completes from a safe state (70 R223). -/
theorem Safe.exec_port_completes {i : Instr} {s : State} (hs : Safe s) (hi : i.isPacket = false) :
    ∃ t, exec i s = .next t := by
  obtain ⟨hlegal, hinv⟩ := hs
  cases i with
  | nop => exact ⟨s, rfl⟩
  | advance off => exact exec_advance_completes hinv off
  | offer d => exact ⟨Machine.offerDesc d s, rfl⟩
  | reset =>
    obtain ⟨F, hF⟩ := build_initDesc_of_legal hlegal
    exact ⟨resetBlock F s, exec_reset hF⟩
  | speedDir _ _ _ => cases hi
  | idle => cases hi
  | dccReset => cases hi
  | bcastStop _ => cases hi
  | svcMode _ _ => cases hi

/-- Every edge completes from a safe state, and in a safe state (10 R33; 70 R223). -/
theorem Safe.step_completes {s : State} (hs : Safe s) : ∃ t, step s = .next t ∧ Safe t := by
  have hconsumed : Safe (consumeSample s) := hs
  obtain ⟨t, ht⟩ := hconsumed.exec_port_completes (fetch_isPacket s)
  exact ⟨t, (step_of_legal hs.1).trans ht, hconsumed.exec_port (fetch_isPacket s) ht⟩

/-- Every number of edges completes from a safe state, and in a safe state. -/
theorem Safe.run_completes {s : State} (hs : Safe s) (n : Nat) : ∃ t, Host.Core.run core n s = .next t ∧ Safe t := by
  induction n generalizing s with
  | zero => exact ⟨s, rfl, hs⟩
  | succ n ih =>
    obtain ⟨u, hstep, hu⟩ := hs.step_completes
    obtain ⟨t, hrun, ht⟩ := ih hu
    exact ⟨t, (core_run_next hstep).trans hrun, ht⟩

/-- Settles O43: RESET makes the state safe, and so it stays through every run, whatever the ports are driven with. -/
theorem noRunFromResetReachesABadState : Obligations.NoRunFromResetReachesABadState := by
  intro s r l n hlegal hreset
  obtain ⟨-, hsafe⟩ := resetStateIsSafe
  have hr : Safe (r.setInputs l) := hsafe s r hlegal hreset
  exact hr.run_completes n

/-- Settles O25, by `Inv` of the state. -/
theorem advanceFaultsExactlyOutsideInv : Obligations.AdvanceFaultsExactlyOutsideInv :=
  fun _ off => ⟨fun h => exec_advance_of_not_inv h off, fun h => exec_advance_completes h off⟩

/-! ## The reasons of an `OutOfRange` -/

namespace Machine

/-- The reasons of SPEED_DIR, the address checked first (40 R112). -/
theorem buildSpeedDir_eq_outOfRange_iff {maxPayload : Nat} {addr speed : Byte} {dir : Bool} {r : OutOfRange} :
    buildSpeedDir maxPayload addr speed dir = .outOfRange r ↔
      (r = .addr ∧ (addr.toNat = 0 ∨ 127 < addr.toNat)) ∨
      (r = .speed ∧ 1 ≤ addr.toNat ∧ addr.toNat ≤ 127 ∧ 28 < speed.toNat) := by
  constructor
  · intro h
    by_cases haddr : addr.toNat = 0 ∨ 127 < addr.toNat
    · rw [buildSpeedDir_of_addr haddr] at h
      cases h
      exact .inl ⟨rfl, haddr⟩
    · obtain ⟨h1, h127⟩ : 1 ≤ addr.toNat ∧ addr.toNat ≤ 127 := by omega
      by_cases hspeed : 28 < speed.toNat
      · rw [buildSpeedDir_of_speed h1 h127 hspeed] at h
        cases h
        exact .inr ⟨rfl, h1, h127, hspeed⟩
      · rw [buildSpeedDir_of_inRange h1 h127 (by omega)] at h
        cases h
  · rintro (⟨rfl, haddr⟩ | ⟨rfl, h1, h127, hspeed⟩)
    · exact buildSpeedDir_of_addr haddr dir
    · exact buildSpeedDir_of_speed h1 h127 hspeed dir

/-- The reason of SVC_MODE (40 R116). -/
theorem buildSvcMode_eq_outOfRange_iff {maxPayload : Nat} {len : Byte} {payload : List Byte} {r : OutOfRange} :
    buildSvcMode maxPayload len payload = .outOfRange r ↔
      r = .len ∧ (len.toNat = 0 ∨ maxPayload < len.toNat) := by
  constructor
  · intro h
    by_cases hlen : len.toNat = 0 ∨ maxPayload < len.toNat
    · rw [buildSvcMode_of_len hlen] at h
      cases h
      exact ⟨rfl, hlen⟩
    · rw [buildSvcMode_of_inRange (by omega) (by omega)] at h
      cases h
  · rintro ⟨rfl, hlen⟩
    exact buildSvcMode_of_len hlen payload

/-- The table of 60 R191: the reasons of `Build`, each with its condition. -/
theorem build_eq_outOfRange_iff {maxPayload : Nat} {d : Desc} {r : OutOfRange} :
    build maxPayload d = .outOfRange r ↔
      (r = .addr ∧ descTag d = 0x00 ∧ ((descAddr d).toNat = 0 ∨ 127 < (descAddr d).toNat)) ∨
      (r = .speed ∧ descTag d = 0x00 ∧
        1 ≤ (descAddr d).toNat ∧ (descAddr d).toNat ≤ 127 ∧ 28 < (descSpeed d).toNat) ∨
      (r = .len ∧ descTag d = 0x04 ∧ ((descLen d).toNat = 0 ∨ maxPayload < (descLen d).toNat)) ∨
      (r = .tag ∧ 5 ≤ (descTag d).toNat) := by
  have htags : descTag d = 0x00 ∨ descTag d = 0x01 ∨ descTag d = 0x02 ∨ descTag d = 0x03 ∨ descTag d = 0x04 ∨
      5 ≤ (descTag d).toNat := by bv_omega
  obtain htag | htag | htag | htag | htag | htag := htags
  · simp [build_speedDir maxPayload htag, buildSpeedDir_eq_outOfRange_iff, htag]
  · simp [build_idle maxPayload htag, buildIdle, htag]
  · simp [build_dccReset maxPayload htag, buildDccReset, htag]
  · simp [build_bcastStop maxPayload htag, buildBcastStop, htag]
  · simp [build_svcMode maxPayload htag, buildSvcMode_eq_outOfRange_iff, htag]
  · have hne : descTag d ≠ 0#8 ∧ descTag d ≠ 4#8 := by bv_omega
    simp [build_reserved maxPayload htag, buildReserved, htag, hne, eq_comm (a := OutOfRange.tag)]

end Machine

/-- Settles O13: the table of reasons read row by row, and the OFFER of an `OutOfRange`. -/
theorem outOfRangeHasFourCauses : Obligations.OutOfRangeHasFourCauses :=
  ⟨fun maxPayload d => by simp [build_eq_outOfRange_iff], fun _ _ _ h => exec_offer_of_build h, rfl⟩

end Sys2Proof

/-! # Proofs for 70_reset_and_hazards.md

RESET by what `INIT_DESC` builds, the frame that repeats after it, the wait for the boundary, and a strobe held high. -/

namespace Sys2Proof

open Machine

/-! ## RESET -/

/-- RESET refuses an `INIT_DESC` that does not build (70 R225). -/
theorem Machine.exec_reset_of_outOfRange {s : State} {r : OutOfRange}
    (h : build s.cfg.maxPayload s.cfg.initDesc = .outOfRange r) : exec .reset s = .refused .illegalConfig := by
  simp only [exec, execReset, h]

/-- Settles O32: RESET installs the frame that `INIT_DESC` of the legal configuration builds. -/
theorem resetEstablishesTheResetState : Obligations.ResetEstablishesTheResetState := by
  intro s hlegal
  obtain ⟨F, hF⟩ := build_initDesc_of_legal hlegal
  exact ⟨F, resetBlock F s, hF, exec_reset hF, rfl, rfl, rfl, rfl, unspecifiedFrame_bytes_length _ _,
    rfl, rfl, rfl, rfl, rfl⟩

/-- Settles O34: both states install or refuse alike, by what the one `INIT_DESC` builds. -/
theorem resetForgetsTheEarlierState : Obligations.ResetForgetsTheEarlierState := by
  intro s u hcfg hinputs
  cases hb : build s.cfg.maxPayload s.cfg.initDesc with
  | ok F =>
    have hu := exec_reset (s := u) (F := F) (hcfg ▸ hb)
    rw [exec_reset hb, hu]
    refine ⟨fun t ht => ⟨_, rfl, ?_⟩, nofun⟩
    cases ht
    rw [resetBlock_eq, resetBlock_eq, hcfg, hinputs]
  | outOfRange o =>
    have hu := exec_reset_of_outOfRange (s := u) (r := o) (hcfg ▸ hb)
    rw [exec_reset_of_outOfRange hb, hu]
    exact ⟨nofun, fun _ h => h⟩

/-- Settles O35: the configuration is not legal, so no edge runs, and RESET has no frame to install. -/
theorem initDescThatDoesNotBuildIsRefused : Obligations.InitDescThatDoesNotBuildIsRefused := by
  intro s r hb
  have hillegal : legal s.cfg = false := by simp [legal, hb, Built.isOk]
  exact ⟨by simp [step, hillegal], exec_reset_of_outOfRange hb⟩

/-! ## The frame after RESET -/

/-- A second boundary with nothing offered in between leaves what the first left (42 R165). -/
theorem Machine.afterBoundary_afterBoundary (s : State) : afterBoundary (afterBoundary s) = afterBoundary s := rfl

/-- Settles O36: RESET starts the initial frame over an empty slot, so each of its boundaries leaves the same state. -/
theorem firstFrameAfterResetIsTheInitialOne : Obligations.FirstFrameAfterResetIsTheInitialOne := by
  intro s hlegal
  obtain ⟨F, hF⟩ := build_initDesc_of_legal hlegal
  have hsafe := safe_resetBlock hlegal hF
  have hfirst := runAdvances_halfBits hsafe.2 ⟨rfl, rfl⟩
  have hsecond := runAdvances_halfBits (safe_afterBoundary hsafe).2 (atFrameStart_afterBoundary _)
  exact ⟨F, resetBlock F s, _, _, hF, exec_reset hF, hfirst, hsecond, afterBoundary_afterBoundary _⟩

/-! ## The block never stops -/

/-- Settles O42, by `Safe.step_completes`. -/
theorem theMachineNeverStops : Obligations.TheMachineNeverStops := by
  intro s hs
  obtain ⟨t, ht, -⟩ := hs.step_completes
  exact ⟨t, ht⟩

/-! ## The wait for the boundary -/

namespace Machine

/-- In no phase are more bits left than the preamble, the bytes with their separators and the end bit (41 R148). -/
theorem bitsLeft_le {p : Params} {F : Frame} {ph : Phase} (hlen : 2 ≤ F.len) (h : phaseOk p F ph = true) :
    bitsLeft F ph ≤ preLen p F.cls + 9 * F.len + 1 := by
  cases ph with
  | pre k =>
    simp only [phaseOk, Bool.and_eq_true, decide_eq_true_eq] at h
    simp only [bitsLeft]
    omega
  | data i b =>
    simp only [phaseOk, Bool.and_eq_true, decide_eq_true_eq] at h
    simp only [bitsLeft]
    omega
  | start => simp only [bitsLeft]; omega
  | sep i => simp only [bitsLeft]; omega
  | endBit => simp only [bitsLeft]; omega

/-- Inside `Inv` no more than the whole frame is left (20 R62). -/
theorem halfBitsLeft_le_halfBits {s : State} (h : inv s = true) : halfBitsLeft s ≤ halfBits s.cfg s.cur := by
  obtain ⟨-, -, hph, -⟩ := (inv_iff s).1 h
  have hbits := bitsLeft_le (cur_of_inv h).1 hph
  unfold halfBitsLeft halfBits
  cases s.half <;> simp only <;> omega

/-- The last ADVANCE of a run. -/
theorem exec_advance_of_runAdvances_succ {n : Nat} {s t u : State} {tr tr' : List (Bool × Micros)}
    (hn : runAdvances n s = some (t, tr)) (hsucc : runAdvances (n + 1) s = some (u, tr')) :
    exec (.advance none) t = .next u := by
  rw [runAdvances_add, hn, Option.bind_some] at hsucc
  rw [exec_advance_none]
  cases ha : advanceHalfBit t with
  | next v =>
    rw [runAdvances_succ ha] at hsucc
    cases hsucc
    rfl
  | fault f => simp [runAdvances, exec_advance_none, ha] at hsucc
  | refused r => simp [runAdvances, exec_advance_none, ha] at hsucc

end Machine

/-- Settles O47: the ADVANCEs before the last one reach the boundary by `noHandoffBeforeTheBoundary`, and the last one
ends past it by `runAdvances_halfBitsLeft`. -/
theorem waitForTheBoundaryIsBounded : Obligations.WaitForTheBoundaryIsBounded := by
  intro s h
  have hpos := halfBitsLeft_pos s
  have hle := halfBitsLeft_le_halfBits h
  have hlast : halfBitsLeft s - 1 + 1 = halfBitsLeft s := by omega
  obtain ⟨t, tr, hrun, hcur, hpend, -, hb⟩ := noHandoffBeforeTheBoundary s (halfBitsLeft s - 1) h (by omega)
  have hadv := exec_advance_of_runAdvances_succ hrun (hlast ▸ runAdvances_halfBitsLeft h)
  refine ⟨halfBitsLeft s, t, tr, hpos, hle, fun hcfg hcls hlen => ?_, rfl, hrun, hb.2 hlast, hcur, hpend,
    afterBoundary s, hadv, rfl, rfl⟩
  have hbound : halfBits s.cfg s.cur = 76 := by simp [halfBits, preLen, Params.default, hcfg, hcls, hlen]
  exact hbound ▸ hle

/-! ## A strobe held high -/

/-- An observed edge with `adv` high stops the run where the state is outside `Inv` (60 R192). -/
theorem Machine.observe_advance_of_not_inv {s : State} (hl : legal s.cfg = true) {x : PortSample} (hr : x.rst = false)
    (ha : x.adv = true) (h : inv s = false) (l : List PortSample) (n : Nat) :
    observe (n + 1) (s.setInputs (x :: l)) = none := by
  obtain ⟨-, hstep⟩ := step_setInputs_cons hl x l
  rw [decodeSample_eq, hr, ha] at hstep
  have hfault := hstep.trans (exec_advance_of_not_inv (s := s.setInputs l) h _)
  simp only [observe, hfault]

/-- Settles O51, by induction on the number of edges: each is one ADVANCE, or both runs stop there. -/
theorem heldStrobeIsRepeatedAdvance : Obligations.HeldStrobeIsRepeatedAdvance := by
  intro m s d hl
  induction m generalizing s with
  | zero => rfl
  | succ m ih =>
    rw [List.replicate_succ]
    cases hi : inv s with
    | true =>
      obtain ⟨t, ht⟩ := advance_completes hi
      obtain ⟨hcfg, -⟩ := advanceHalfBit_unwritten ht
      rw [observe_advance hl rfl rfl ht, runAdvances_succ (advanceHalfBit_setInputs ht []), ← ih t (hcfg ▸ hl)]
      rfl
    | false =>
      have hfault : exec (.advance none) (s.setInputs []) = .fault .badState :=
        exec_advance_of_not_inv (s := s.setInputs []) hi none
      rw [observe_advance_of_not_inv hl rfl rfl hi]
      simp only [runAdvances, hfault]

end Sys2Proof
